-- ==== Sys2Proof/Word.lean ====
section
/-! DEFINITION. The bit vectors of the core's data paths (spec/00_scope.md R8, spec/30_encoding.md R43). -/

namespace Sys2Proof

/-- A byte: the accumulator and each byte slot (R8). -/
abbrev Byte := BitVec 8

/-- A result word: `ADDR_OUT` and `CMD_OUT` (R8, "a pair of unsigned 32-bit values"). -/
abbrev Word := BitVec 32

/-- A raw duration in timer ticks: 16 bits a half-period (R8, R42). -/
abbrev Ticks := BitVec 16

/-- A raw logic level on a record port (R42). -/
abbrev Level := BitVec 1

/-- The 36-bit command word `W` (R43). -/
abbrev CommandWord := BitVec 36

end Sys2Proof
end

