-- ==== Sys2Proof/Machine/Constants.lean ====
section
/-! DEFINITION. The protocol constants of spec/00_scope.md R7, each under the spec's own name with its normative default
(log 8: the spec calls the literals unaudited). -/

namespace Sys2Proof.Machine.Protocol

/-- R7: "34 records total". -/
abbrev FRAME_RECORDS : Nat := 34

/-- R7: "32 data-bit records". -/
abbrev DATA_BITS : Nat := 32

/-- R7: centre of the header mark window, in microseconds. -/
abbrev HDR_MARK_US : Nat := 9000

/-- R7: tolerance of the header mark window. -/
abbrev HDR_MARK_TOL : Nat := 2000

/-- R7: centre of the header space window. -/
abbrev HDR_SPACE_US : Nat := 4500

/-- R7: tolerance of the header space window. -/
abbrev HDR_SPACE_TOL : Nat := 2000

/-- R7: centre of the data-bit mark window. -/
abbrev BIT_MARK_US : Nat := 560

/-- R7: tolerance of all three data-bit windows. -/
abbrev BIT_TOL : Nat := 400

/-- R7: centre of the one-space window. -/
abbrev ONE_SPACE_US : Nat := 1690

/-- R7: centre of the zero-space window. -/
abbrev ZERO_SPACE_US : Nat := 560

/-- R7: "(raw_ticks & 0x7FFF)". -/
abbrev DUR_MASK : Ticks := 0x7FFF#16

/-- R7: "* 10 / tick_10_us". -/
abbrev US_PER_UNIT : Nat := 10

/-- R7: "addressComplement XOR 0xFF". -/
abbrev CHK_MASK : Byte := 0xFF#8

/-- R93, third condition: each constant pair has centre ≥ tolerance, so that no window goes below 0. -/
def pairsLegal : Bool :=
  decide (HDR_MARK_TOL ≤ HDR_MARK_US) && decide (HDR_SPACE_TOL ≤ HDR_SPACE_US) && decide (BIT_TOL ≤ BIT_MARK_US)
    && decide (BIT_TOL ≤ ONE_SPACE_US) && decide (BIT_TOL ≤ ZERO_SPACE_US)

end Sys2Proof.Machine.Protocol
end

