-- ==== Sys2Proof/Config.lean ====
section
/-! DEFINITION. The configuration a core is built with (spec/00_scope.md R6, spec/70_reset_and_hazards.md R93) and the free
values of the model: constants with no body, so that no proof can see what they are. -/

namespace Sys2Proof

/-- The configuration of a core (R6). An illegal `TICK10` cannot be written down: the structure carries R93's bound, so that
no step ever divides by zero ("never given a value", R93). `ACTIVE_LEVEL` is 0 or 1 by its type. -/
structure Config where
  /-- `TICK10`: raw timer ticks per 10 microseconds. -/
  tick10 : Nat
  /-- `ACTIVE_LEVEL`: the level the receiver reports during a mark. -/
  activeLevel : Level
  /-- R93: 1 ≤ `TICK10` ≤ 65535. -/
  legal : 1 ≤ tick10 ∧ tick10 ≤ 65535
deriving DecidableEq, Repr

/-- FREE VALUE (log 4): what the host drives on the input ports at the n-th edge that `State.inputs` does not list.
Bit 36 is `rst`, bits 35:0 are the command word `W`. -/
opaque Config.freeInput : Nat → BitVec 37

/-- FREE VALUE (log 5, R95): `CNT` of the n-th core built, before its first reset edge. -/
opaque Config.powerOnCnt : Nat → BitVec 6

/-- FREE VALUE (log 5, R95): `HDR_OK` of the n-th core built, before its first reset edge. -/
opaque Config.powerOnHdrOk : Nat → Bool

/-- FREE VALUE (log 5, R95): `ACC` of the n-th core built, before its first reset edge. -/
opaque Config.powerOnAcc : Nat → Byte

/-- FREE VALUE (log 5, R95): `SLOT[k]` of the n-th core built, before its first reset edge. -/
opaque Config.powerOnSlot : Nat → Nat → Byte

/-- FREE VALUE (log 5, R95): `DONE` of the n-th core built, before its first reset edge. -/
opaque Config.powerOnDone : Nat → Bool

/-- FREE VALUE (log 5, R95): `OK` of the n-th core built, before its first reset or FINISH. -/
opaque Config.powerOnOk : Nat → Bool

/-- FREE VALUE (log 5, R95): `ADDR_OUT` of the n-th core built, before its first reset or FINISH. -/
opaque Config.powerOnAddrOut : Nat → Word

/-- FREE VALUE (log 5, R95): `CMD_OUT` of the n-th core built, before its first reset or FINISH. -/
opaque Config.powerOnCmdOut : Nat → Word

end Sys2Proof
end

