-- ==== Sys2Proof/Syntax.lean ====
section
/-! DEFINITION. The core's operations (spec/30_encoding.md R44), the pulse record a PUSH carries (R45), the input and output
ports (R42), and the assembler lines of R50 and R51. -/

namespace Sys2Proof

/-- The four operations, one constructor per row of the opcode table (R44). PUSH names its operands in the order of R50. -/
inductive Instr where
  /-- `NOP` (R63). -/
  | nop
  /-- `START` (R64). -/
  | start
  /-- `PUSH l0, d0, l1, d1` (R65). -/
  | push (l0 : Level) (d0 : Ticks) (l1 : Level) (d1 : Ticks)
  /-- `FINISH` (R73). -/
  | finish
deriving DecidableEq, Repr

/-- One pulse record: two half-periods, each a raw level and a raw tick count (R45). -/
structure PulseRecord where
  /-- Level of the first half-period (the mark). -/
  l0 : Level
  /-- Raw ticks of the first half-period. -/
  d0 : Ticks
  /-- Level of the second half-period (the space). -/
  l1 : Level
  /-- Raw ticks of the second half-period. -/
  d1 : Ticks
deriving DecidableEq, Repr

/-- The input ports sampled at one rising edge of `clk` (R42). Every bit is 0 or 1 (R49; log 10). -/
structure Inputs where
  rst   : BitVec 1
  op    : BitVec 2
  recL0 : Level
  recD0 : Ticks
  recL1 : Level
  recD1 : Ticks
deriving DecidableEq, Repr

/-- The output ports (R42). -/
structure Outputs where
  done    : BitVec 1
  ok      : BitVec 1
  addrOut : Word
  cmdOut  : Word
deriving DecidableEq, Repr

/-- One line of the assembler notation (R50), and the two pseudo-operations (R51), with operands as the numbers written. -/
inductive AsmLine where
  | nop
  | start
  | push (l0 d0 l1 d1 : Nat)
  | finish
  /-- `REC m, s` (R51). -/
  | recLine (m s : Nat)
  /-- `BYTE v, m, s0, s1` (R51). -/
  | byteLine (v m s0 s1 : Nat)
deriving DecidableEq, Repr

end Sys2Proof
end

