-- ==== Sys2Proof/WellFormed.lean ====
section
/-! DEFINITION. What is well formed: an operation (always: no command word is illegal, spec/30_encoding.md R48), an assembler
line (operand ranges of R50 and R51) and a pair of configuration values (spec/70_reset_and_hazards.md R93). -/

namespace Sys2Proof

/-- R48: "No command word is illegal, reserved or a hint." The operand widths are in the constructor's types. -/
def Instr.wellFormed : Instr → Bool
  | .nop => true
  | .start => true
  | .push _ _ _ _ => true
  | .finish => true

/-- A level operand is 0 or 1 (R50). -/
def levelInRange (l : Nat) : Bool := decide (l ≤ 1)

/-- A raw tick operand is 0..65535 (R50). -/
def ticksInRange (d : Nat) : Bool := decide (d ≤ 65535)

/-- A byte operand of BYTE is 0..255 (R51: the bits `v[j]`, j = 0..7). -/
def byteInRange (v : Nat) : Bool := decide (v ≤ 255)

/-- An assembler line whose every operand lies in the range R50 gives it. -/
def AsmLine.wellFormed : AsmLine → Bool
  | .nop => true
  | .start => true
  | .push l0 d0 l1 d1 => levelInRange l0 && ticksInRange d0 && levelInRange l1 && ticksInRange d1
  | .finish => true
  | .recLine m s => ticksInRange m && ticksInRange s
  | .byteLine v m s0 s1 => byteInRange v && ticksInRange m && ticksInRange s0 && ticksInRange s1

/-- R93: the configuration is legal only when all of these hold. -/
def configurationLegal (tick10 activeLevel : Nat) : Bool :=
  decide (1 ≤ tick10) && decide (tick10 ≤ 65535) && decide (activeLevel ≤ 1) && Machine.Protocol.pairsLegal

end Sys2Proof
end

