-- ==== Sys2Proof/Decode.lean ====
section
/-! DEFINITION. The command word (spec/30_encoding.md R43, R44, R45, R47): its fields, the decoder, and the encoder written
from the same table. Every 36-bit word decodes (R44, R48); a number that is no 36-bit word is rejected by name. -/

namespace Sys2Proof

/-- `OP` = W[35:34] (R43). -/
def opField (w : CommandWord) : BitVec 2 := w.extractLsb' 34 2

/-- `L1` = W[33] (R43). -/
def l1Field (w : CommandWord) : Level := w.extractLsb' 33 1

/-- `D1` = W[32:17] (R43). -/
def d1Field (w : CommandWord) : Ticks := w.extractLsb' 17 16

/-- `L0` = W[16] (R43). -/
def l0Field (w : CommandWord) : Level := w.extractLsb' 16 1

/-- `D0` = W[15:0] (R43). -/
def d0Field (w : CommandWord) : Ticks := w.extractLsb' 0 16

/-- R43: W = {op[1:0], rec_l1, rec_d1[15:0], rec_l0, rec_d0[15:0]}. -/
def packWord (op : BitVec 2) (l1 : Level) (d1 : Ticks) (l0 : Level) (d0 : Ticks) : CommandWord :=
  op ++ l1 ++ d1 ++ l0 ++ d0

/-- R44: the operation is selected by `OP` alone; R45: a PUSH takes its record from the other fields. Total. -/
def decode (w : CommandWord) : Instr :=
  if opField w = 0b00#2 then .nop
  else if opField w = 0b01#2 then .start
  else if opField w = 0b10#2 then .push (l0Field w) (d0Field w) (l1Field w) (d1Field w)
  else .finish

/-- R44's mask column: the same for every row. -/
def opMask : CommandWord := 0xC00000000#36

/-- R44's match column. -/
def Instr.matchWord : Instr → CommandWord
  | .nop => 0x000000000#36
  | .start => 0x400000000#36
  | .push _ _ _ _ => 0x800000000#36
  | .finish => 0xC00000000#36

/-- The bits of a command word that its operation reads (R47 leaves the others free; bits 15 and 32 of a PUSH are
operand bits that the classifier masks). -/
def Instr.operandMask : Instr → CommandWord
  | .nop => opMask
  | .start => opMask
  | .push _ _ _ _ => 0xFFFFFFFFF#36
  | .finish => opMask

/-- The command word of an operation: the fields of R43 with `OP` from R44. NOP, START and FINISH are encoded with their
ignored bits 0 ("The command words of the four operations with all record bits 0", spec/95_test_vectors.md section 4). -/
def encode : Instr → CommandWord
  | .nop => packWord 0b00#2 0#1 0#16 0#1 0#16
  | .start => packWord 0b01#2 0#1 0#16 0#1 0#16
  | .push l0 d0 l1 d1 => packWord 0b10#2 l1 d1 l0 d0
  | .finish => packWord 0b11#2 0#1 0#16 0#1 0#16

/-- Why a number is no command word. -/
inductive DecodeError where
  /-- The number does not fit the 36 bits of a command word ("Every command word is 36 bits", R43). -/
  | widerThan36Bits
deriving DecidableEq, Repr

/-- Reads a number as a command word and decodes it; rejects by name one that is wider than 36 bits (R43; log 13). -/
def decodeNumber (w : Nat) : Except DecodeError Instr :=
  if w < 2 ^ 36 then .ok (decode (BitVec.ofNat 36 w)) else .error .widerThan36Bits

/-- What the decoder reads from the opcode table's word `w`. A command word is one word of 36 bits on the ports, never laid
out in bytes (R27, R43), so the table's numbering is the word's own (R9). `w` has no bit at or above `nbits` by contract, so
`nbits` adds nothing to it (log 13). -/
def decodeTableWord (_nbits w : Nat) : Option Instr :=
  match decodeNumber w with
  | .ok i => some i
  | .error _ => none

end Sys2Proof
end

