-- ==== Sys2Proof/Machine/State.lean ====
section
/-! DEFINITION. The state of the core: the registers of spec/10_state.md R13, the configuration they run under, and the input
ports' coming edges; the reasons a step can stop; and the state after reset (spec/70_reset_and_hazards.md R94). -/

namespace Sys2Proof.Machine

/-- The four byte slots `SLOT[0..3]` in the order of R18. -/
structure Slots where
  /-- `SLOT[0]`, the address byte. -/
  addr : Byte
  /-- `SLOT[1]`, the address-complement byte. -/
  addrComp : Byte
  /-- `SLOT[2]`, the command byte. -/
  cmd : Byte
  /-- `SLOT[3]`, the command-complement byte. -/
  cmdComp : Byte
deriving DecidableEq, Repr

/-- A step never faults (R61: "it never faults, never stalls and never refuses"; R82, R86): there is no fault reason. -/
inductive Fault where
deriving DecidableEq, Repr

/-- Why the model refuses. -/
inductive Refusal where
  /-- Raised by `exec` for an operation with no meaning yet; no arm does. Safe. -/
  | notModelled (mnemonic : String)
  /-- Raised by `State.construct` alone, for a configuration that R93 calls illegal: there is no core to run. Safe. -/
  | illegalConfiguration
deriving DecidableEq, Repr

/-- The state (R13), plain data. The last three fields and `cfg` are the model's own (log 1, 3, 4). -/
structure State where
  /-- `TICK10` and `ACTIVE_LEVEL` (R6): no step writes it (log 1). -/
  cfg : Config
  /-- `CNT`, the record counter (R14). -/
  cnt : BitVec 6
  /-- `HDR_OK` (R16). -/
  hdrOk : Bool
  /-- `ACC`, the accumulator (R17). -/
  acc : Byte
  /-- `SLOT[0..3]` (R18). -/
  slot : Slots
  /-- `DONE` (R19). -/
  done : Bool
  /-- `OK` (R20). -/
  ok : Bool
  /-- `ADDR_OUT` (R21). -/
  addrOut : Word
  /-- `CMD_OUT` (R21). -/
  cmdOut : Word
  /-- What the host drives on the input ports at the coming edges, the next edge first (log 3). -/
  inputs : List Inputs
  /-- How many edges have passed whose inputs were not listed: it numbers the free inputs (log 4). -/
  freeEdges : Nat
deriving DecidableEq, Repr

/-- Every slot 0x00. -/
def Slots.zero : Slots := { addr := 0x00#8, addrComp := 0x00#8, cmd := 0x00#8, cmdComp := 0x00#8 }

/-- The registers after a reset edge (R94), under a given configuration and with given coming inputs. -/
def State.afterReset (cfg : Config) (inputs : List Inputs) (freeEdges : Nat) : State where
  cfg := cfg
  cnt := 0#6
  hdrOk := false
  acc := 0x00#8
  slot := Slots.zero
  done := false
  ok := false
  addrOut := 0x00000000#32
  cmdOut := 0x00000000#32
  inputs := inputs
  freeEdges := freeEdges

/-- The configuration of `State.reset`: the one the spec's test vectors use (DESIGN CHOICE, unsafe, log 2). -/
def testVectorConfig : Config := { tick10 := 10, activeLevel := 0#1, legal := by decide }

/-- The machine right after reset: every register as R94 says, nothing listed on the input ports. -/
def State.reset : State := State.afterReset testVectorConfig [] 0

end Sys2Proof.Machine
end

