-- ==== Sys2Proof/Machine/Ops.lean ====
section
/-! DEFINITION. The named operations over the registers and the ports, shared by the meanings. The core has no memory
(spec/20_memory.md R27) and no trap (spec/60_exceptions.md R86): there is no memory operation, no taking of an exception and
no return from one. Reset (spec/70_reset_and_hazards.md R94) is the one entry the spec describes. -/

namespace Sys2Proof

/-! ### The input ports (R42, R43) -/

/-- The command word of the ports sampled at one edge (R43). -/
def Inputs.word (e : Inputs) : CommandWord := packWord e.op e.recL1 e.recD1 e.recL0 e.recD0

/-- The ports that carry a given `rst` and command word (R43 read the other way). -/
def Inputs.ofWord (rst : BitVec 1) (w : CommandWord) : Inputs where
  rst := rst
  op := opField w
  recL0 := l0Field w
  recD0 := d0Field w
  recL1 := l1Field w
  recD1 := d1Field w

/-- The ports as 37 bits: bit 36 `rst`, bits 35:0 the command word. The form of a free input (log 4). -/
def Inputs.ofBits (b : BitVec 37) : Inputs := Inputs.ofWord (b.extractLsb' 36 1) (b.extractLsb' 0 36)

/-- The host drives operation `i` with `rst` = 0. -/
def Inputs.drive (i : Instr) : Inputs := Inputs.ofWord 0#1 (encode i)

/-- The host drives one pulse record with `OP` = PUSH and `rst` = 0. -/
def Inputs.drivePush (r : PulseRecord) : Inputs := Inputs.drive (.push r.l0 r.d0 r.l1 r.d1)

end Sys2Proof

namespace Sys2Proof.Machine

/-- What the ports hold at this edge, and the state with that edge taken off the list. Where the list is empty the ports hold
a free value: every claim is then about every input (log 4). -/
def State.sample (s : State) : Inputs × State :=
  match s.inputs with
  | e :: rest => (e, { s with inputs := rest })
  | [] => (Inputs.ofBits (Config.freeInput s.freeEdges), { s with freeEdges := s.freeEdges + 1 })

/-- The host lists one more edge, the very next one, with `rst` = 0 and command word `w`. -/
def State.presentWord (s : State) (w : CommandWord) : State := { s with inputs := Inputs.ofWord 0#1 w :: s.inputs }

/-! ### The output ports (R42): driven directly from registers, so a function of the state alone (R98) -/

/-- What the output ports show (R19, R20, R21, R42). -/
def State.outputs (s : State) : Outputs where
  done := BitVec.ofBool s.done
  ok := BitVec.ofBool s.ok
  addrOut := s.addrOut
  cmdOut := s.cmdOut

/-! ### Reset and clearing -/

/-- R94: every register to its reset value; the configuration is not reset. -/
def State.applyReset (s : State) : State := State.afterReset s.cfg s.inputs s.freeEdges

/-- Clears `CNT`, `HDR_OK`, `ACC` and `SLOT[0..3]`: the part START (R64) and FINISH (R73) share. -/
def State.clearTransient (s : State) : State :=
  { s with cnt := 0#6, hdrOk := false, acc := 0x00#8, slot := Slots.zero }

/-- Writes `DONE` (R19). -/
def State.setDone (s : State) (b : Bool) : State := { s with done := b }

/-- Writes `OK`, `ADDR_OUT` and `CMD_OUT` at one edge (R20, R21, R35). -/
def State.writeResult (s : State) (ok : Bool) (addr cmd : Word) : State :=
  { s with ok := ok, addrOut := addr, cmdOut := cmd }

/-! ### The views of `CNT` (R15) and the slots (R18) -/

/-- `BITPOS` = (CNT - 1) & 7 (R15). Its value matters only while 1 ≤ `CNT` ≤ 32 (log 14). -/
def bitPos (cnt : BitVec 6) : BitVec 3 := ((cnt - 1#6) &&& 7#6).setWidth 3

/-- `BYTEIDX` = (CNT - 1) >> 3 (R15). Its value matters only while 1 ≤ `CNT` ≤ 32 (log 14). -/
def byteIdx (cnt : BitVec 6) : BitVec 2 := ((cnt - 1#6) >>> 3).setWidth 2

/-- `SLOT[k]`. -/
def Slots.get (b : Slots) (k : BitVec 2) : Byte :=
  if k = 0#2 then b.addr else if k = 1#2 then b.addrComp else if k = 2#2 then b.cmd else b.cmdComp

/-- `SLOT[k] <- v`. -/
def Slots.set (b : Slots) (k : BitVec 2) (v : Byte) : Slots :=
  if k = 0#2 then { b with addr := v }
  else if k = 1#2 then { b with addrComp := v }
  else if k = 2#2 then { b with cmd := v }
  else { b with cmdComp := v }

/-- The 32-bit frame word `F` (R32): a view that no part of the core reads. -/
def Slots.frameWord (b : Slots) : Word :=
  b.addr.setWidth 32 ||| (b.addrComp.setWidth 32 <<< 8) ||| (b.cmd.setWidth 32 <<< 16) ||| (b.cmdComp.setWidth 32 <<< 24)

/-! ### Building a core (R93, R95, R97) -/

/-- The n-th core built, before its first reset edge: every register an arbitrary value (R95; log 5). -/
def State.powerOn (n : Nat) (cfg : Config) (inputs : List Inputs) : State where
  cfg := cfg
  cnt := Config.powerOnCnt n
  hdrOk := Config.powerOnHdrOk n
  acc := Config.powerOnAcc n
  slot :=
    { addr := Config.powerOnSlot n 0, addrComp := Config.powerOnSlot n 1, cmd := Config.powerOnSlot n 2,
      cmdComp := Config.powerOnSlot n 3 }
  done := Config.powerOnDone n
  ok := Config.powerOnOk n
  addrOut := Config.powerOnAddrOut n
  cmdOut := Config.powerOnCmdOut n
  inputs := inputs
  freeEdges := 0

/-- A configuration from two numbers, where R93 calls them legal. -/
def configurationOf (tick10 activeLevel : Nat) : Option Config :=
  if h : 1 ≤ tick10 ∧ tick10 ≤ 65535 then
    if configurationLegal tick10 activeLevel then
      some { tick10 := tick10, activeLevel := BitVec.ofNat 1 activeLevel, legal := h }
    else none
  else none

/-- R97 step 1: build the n-th core with a configuration, before any reset edge. R93: "A model must refuse an illegal
configuration". -/
def State.construct (n tick10 activeLevel : Nat) (inputs : List Inputs) : Host.Outcome State Fault Refusal :=
  match configurationOf tick10 activeLevel with
  | some cfg => .next (State.powerOn n cfg inputs)
  | none => .refused .illegalConfiguration

end Sys2Proof.Machine
end

