-- ==== Sys2Proof/Machine/Operands.lean ====
section
/-! DEFINITION. The operands of a PUSH: the record assembled from the command word (spec/30_encoding.md R45), its levels
against `ACTIVE_LEVEL` (R46), and the masked duration (R47, spec/00_scope.md R8). -/

namespace Sys2Proof.Machine

/-- `rec(W)` (R45): "No field is sign-extended, scaled or shifted at this stage." -/
def recordOf (w : CommandWord) : PulseRecord where
  l0 := l0Field w
  d0 := d0Field w
  l1 := l1Field w
  d1 := d1Field w

/-- `active(l)` (R46). -/
def active (cfg : Config) (l : Level) : Bool := l == cfg.activeLevel

/-- `inactive(l)` (R46). -/
def inactive (cfg : Config) (l : Level) : Bool := l != cfg.activeLevel

/-- The masked duration (R8, R47): bit 15 is not part of the magnitude. -/
def maskedTicks (d : Ticks) : Nat := (d &&& Protocol.DUR_MASK).toNat

end Sys2Proof.Machine
end

