-- ==== Sys2Proof/Machine/Classifier.lean ====
section
/-! DEFINITION. The timing-window classifier of spec/40_classifier.md: pure functions of one record and the configuration. -/

namespace Sys2Proof.Machine

/-- `dur_us(d)` (R52): multiply, then floor division, on natural numbers. -/
def durUs (cfg : Config) (d : Ticks) : Nat := maskedTicks d * Protocol.US_PER_UNIT / cfg.tick10

/-- `in_win(x, c, t)` (R53): both ends included. -/
def inWin (x c t : Nat) : Bool := decide (c - t ≤ x) && decide (x ≤ c + t)

/-- `hdr_match(rec)` (R56). -/
def hdrMatch (cfg : Config) (r : PulseRecord) : Bool :=
  active cfg r.l0 && inactive cfg r.l1
    && inWin (durUs cfg r.d0) Protocol.HDR_MARK_US Protocol.HDR_MARK_TOL
    && inWin (durUs cfg r.d1) Protocol.HDR_SPACE_US Protocol.HDR_SPACE_TOL

/-- `shape(rec)` (R57): the level pattern and the mark window that both classes share. -/
def bitShape (cfg : Config) (r : PulseRecord) : Bool :=
  active cfg r.l0 && inactive cfg r.l1 && inWin (durUs cfg r.d0) Protocol.BIT_MARK_US Protocol.BIT_TOL

/-- The signal `is_one` (R57, R60). -/
def isOne (cfg : Config) (r : PulseRecord) : Bool :=
  bitShape cfg r && inWin (durUs cfg r.d1) Protocol.ONE_SPACE_US Protocol.BIT_TOL

/-- The signal `is_zero` (R57, R60). -/
def isZero (cfg : Config) (r : PulseRecord) : Bool :=
  bitShape cfg r && inWin (durUs cfg r.d1) Protocol.ZERO_SPACE_US Protocol.BIT_TOL

/-- The three classes of a data-bit record (R57). -/
inductive BitClass where
  | one
  | zero
  | unrec
deriving DecidableEq, Repr

/-- `classify(rec)` (R57): `ONE` is tested first. -/
def classify (cfg : Config) (r : PulseRecord) : BitClass :=
  if isOne cfg r then .one else if isZero cfg r then .zero else .unrec

end Sys2Proof.Machine
end

