-- ==== Sys2Proof/Machine/Validator.lean ====
section
/-! DEFINITION. The 8-bit checksum validator and the widening of its results (spec/42_checksum.md R72, R73,
spec/20_memory.md R33). -/

namespace Sys2Proof.Machine

/-- `chk_ok(a, ac, c, cc)` (R72). -/
def chkOk (a ac c cc : Byte) : Bool := (a == ac ^^^ Protocol.CHK_MASK) && (c == cc ^^^ Protocol.CHK_MASK)

/-- The checksum over the four slots (R72, R73). -/
def Slots.chkOk (b : Slots) : Bool := Machine.chkOk b.addr b.addrComp b.cmd b.cmdComp

/-- An output word: `zext_32` of a byte on success, 0 on failure (R21, R33, R73). -/
def resultWord (ok : Bool) (b : Byte) : Word := if ok then b.setWidth 32 else 0x00000000#32

end Sys2Proof.Machine
end

