-- ==== Sys2Proof/Machine/Flags.lean ====
section
/-! DEFINITION. What the flags are computed from: `HDR_OK` at the header record (spec/41_accumulator.md R66), `OK` at FINISH
(spec/42_checksum.md R73), and the four failure causes (R74), which are tested together and never reported (R81). -/

namespace Sys2Proof.Machine

/-- The value `HDR_OK` takes at the header record (R66). -/
def headerFlag (cfg : Config) (r : PulseRecord) : Bool := hdrMatch cfg r

/-- The value `OK` takes at FINISH (R73). -/
def outcomeFlag (s : State) : Bool :=
  (s.cnt.toNat == Protocol.FRAME_RECORDS) && s.hdrOk && s.slot.chkOk

end Sys2Proof.Machine
end

