-- ==== Sys2Proof/Machine/Accumulator.lean ====
section
/-! DEFINITION. NOP, START and PUSH (spec/41_accumulator.md). -/

namespace Sys2Proof.Machine

/-- `acc_next(acc, rec)` (R67). -/
def accNext (cfg : Config) (acc : Byte) (r : PulseRecord) : Byte :=
  match classify cfg r with
  | .one => (acc >>> 1) ||| 0x80#8
  | .zero => acc >>> 1
  | .unrec => acc

/-- `push_header` (R66). -/
def pushHeader (r : PulseRecord) (s : State) : State := { s with hdrOk := headerFlag s.cfg r, cnt := 1#6 }

/-- `push_data` (R68): shift, and at the end of a byte capture it. -/
def pushData (r : PulseRecord) (s : State) : State :=
  if bitPos s.cnt = 7#3 then
    { s with slot := s.slot.set (byteIdx s.cnt) (accNext s.cfg s.acc r), acc := 0x00#8, cnt := s.cnt + 1#6 }
  else { s with acc := accNext s.cfg s.acc r, cnt := s.cnt + 1#6 }

/-- `push_tail` (R69): counts record 33 and saturates. The record is not examined. -/
def pushTail (s : State) : State := if s.cnt = 33#6 then { s with cnt := 34#6 } else s

/-- `push(S, rec)` (R65). The last branch is the pseudocode's else, so a `CNT` above 34, which no reset core reaches, only
clears `DONE` (log 6). -/
def pushRecord (r : PulseRecord) (s : State) : State :=
  if s.cnt.toNat = 0 then pushHeader r (s.setDone false)
  else if s.cnt.toNat ≤ Protocol.DATA_BITS then pushData r (s.setDone false)
  else pushTail (s.setDone false)

/-- `NOP` (R63): no field is written. -/
def execNop (s : State) : Host.Outcome State Fault Refusal := .next s

/-- `START` (R64). The model's choice (log 18, DEDUCED): R36 (spec/20_memory.md) says "Apart from NOP, no operation is
idempotent" and R64 says "START twice is the same as START once"; the model follows R64, whose pseudocode writes constants. -/
def execStart (s : State) : Host.Outcome State Fault Refusal := .next (s.clearTransient.setDone false)

/-- `PUSH l0, d0, l1, d1` (R65). -/
def execPush (l0 : Level) (d0 : Ticks) (l1 : Level) (d1 : Ticks) (s : State) : Host.Outcome State Fault Refusal :=
  .next (pushRecord { l0 := l0, d0 := d0, l1 := l1, d1 := d1 } s)

end Sys2Proof.Machine
end

