-- ==== Sys2Proof/Machine/Checksum.lean ====
section
/-! DEFINITION. FINISH (spec/42_checksum.md R73). -/

namespace Sys2Proof.Machine

/-- The outcome of the call written to the output registers, `DONE` set (R73). -/
def State.concludeCall (s : State) : State :=
  (s.writeResult (outcomeFlag s) (resultWord (outcomeFlag s) s.slot.addr) (resultWord (outcomeFlag s) s.slot.cmd)).setDone
    true

/-- `FINISH` (R73): every right-hand side reads the state before the edge; the transient state is discarded. -/
def execFinish (s : State) : Host.Outcome State Fault Refusal := .next s.concludeCall.clearTransient

end Sys2Proof.Machine
end

