-- ==== Sys2Proof/Machine/Dispatch.lean ====
section
/-! DEFINITION. One arm per operation (spec/41_accumulator.md R61). -/

namespace Sys2Proof.Machine

def exec (i : Instr) (s : State) : Host.Outcome State Fault Refusal :=
  match i with
  | .nop => Sys2Proof.Machine.execNop s
  | .start => Sys2Proof.Machine.execStart s
  | .push l0 d0 l1 d1 => Sys2Proof.Machine.execPush l0 d0 l1 d1 s
  | .finish => Sys2Proof.Machine.execFinish s

end Sys2Proof.Machine
end

