-- ==== Sys2Proof/Machine/Edge.lean ====
section
/-! DEFINITION. What the core does at one rising edge of `clk` with given inputs (spec/41_accumulator.md R61). -/

namespace Sys2Proof.Machine

/-- R61: `rst` = 1 first, then the operation of the command word. -/
def atEdge (e : Inputs) (s : State) : Host.Outcome State Fault Refusal :=
  if e.rst = 1#1 then .next s.applyReset else exec (decode e.word) s

end Sys2Proof.Machine
end

