-- ==== Sys2Proof/Machine/Step.lean ====
section
/-! DEFINITION. One step: one rising edge of `clk` (spec/41_accumulator.md R61, spec/70_reset_and_hazards.md R101). -/

namespace Sys2Proof.Machine

/-- Samples the input ports (R42) and performs what R61 says. -/
def step (s : State) : Host.Outcome State Fault Refusal := atEdge s.sample.1 s.sample.2

/-- `s` with the command word `w` on the ports, and `rst` = 0, at the very next edge (log 3): the core fetches nothing, "The
operation performed at an edge is the one on the command word at that edge" (R40). -/
def State.withFetchWord (s : State) (_nbits w : Nat) : State := s.presentWord (BitVec.ofNat 36 w)

end Sys2Proof.Machine
end

