-- ==== Sys2Proof/Machine/Assembler.lean ====
section
/-! DEFINITION. The assembler notation of spec/30_encoding.md R50 and the pseudo-operations of R51 (log 16). No step of the
machine calls anything in this file. -/

namespace Sys2Proof.Machine

/-- Why a line of text is no operation. -/
inductive AsmError where
  /-- The first word is none of the notation's mnemonics. -/
  | unknownMnemonic
  /-- The operands are not the numbers, separated by commas, that the mnemonic takes. -/
  | badOperands
  /-- An operand lies outside the range R50 or R51 gives it. -/
  | outOfRange
deriving DecidableEq, Repr

/-- `REC m, s` == `PUSH A, m, !A, s` (R51). -/
def recInstr (a : Level) (m s : Nat) : Instr := .push a (BitVec.ofNat 16 m) (~~~a) (BitVec.ofNat 16 s)

/-- The operations a line stands for, `a` being `ACTIVE_LEVEL` (R50, R51). BYTE emits the bits of `v` least significant
first. -/
def expandLine (a : Level) : AsmLine → List Instr
  | .nop => [.nop]
  | .start => [.start]
  | .push l0 d0 l1 d1 => [.push (BitVec.ofNat 1 l0) (BitVec.ofNat 16 d0) (BitVec.ofNat 1 l1) (BitVec.ofNat 16 d1)]
  | .finish => [.finish]
  | .recLine m s => [recInstr a m s]
  | .byteLine v m s0 s1 => (List.range 8).map fun j => recInstr a m (if v.testBit j then s1 else s0)

/-- A line with its operand ranges checked. -/
def assemble (a : Level) (line : AsmLine) : Except AsmError (List Instr) :=
  if line.wellFormed then .ok (expandLine a line) else .error .outOfRange

/-- "Comments start with `--` or `;`." (R50) -/
def stripComment : List Char → List Char
  | [] => []
  | c :: cs =>
    if c = ';' then []
    else if c = '-' && cs.head? = some '-' then []
    else c :: stripComment cs

/-- Ends the word being read, whose characters are held last first. -/
def endWord (word : List Char) (more : List (List Char)) : List (List Char) :=
  if word.isEmpty then more else word.reverse :: more

/-- Words and commas of a line; `word` holds the word being read, last character first. -/
def tokensFrom : List Char → List Char → List (List Char)
  | word, [] => endWord word []
  | word, c :: cs =>
    if c = ' ' || c = '\t' then endWord word (tokensFrom [] cs)
    else if c = ',' then endWord word ([','] :: tokensFrom [] cs)
    else tokensFrom (c :: word) cs

/-- The value of a hexadecimal digit. -/
def digitValue (c : Char) : Option Nat :=
  if '0'.toNat ≤ c.toNat ∧ c.toNat ≤ '9'.toNat then some (c.toNat - '0'.toNat)
  else if 'a'.toNat ≤ c.toNat ∧ c.toNat ≤ 'f'.toNat then some (c.toNat - 'a'.toNat + 10)
  else if 'A'.toNat ≤ c.toNat ∧ c.toNat ≤ 'F'.toNat then some (c.toNat - 'A'.toNat + 10)
  else none

/-- The number that digits of a base continue from `n`. -/
def digitsFrom (base n : Nat) : List Char → Option Nat
  | [] => some n
  | c :: cs =>
    match digitValue c with
    | some d => if d < base then digitsFrom base (n * base + d) cs else none
    | none => none

/-- A number: hexadecimal after `0x`, else decimal ("A number without `0x` is decimal.", R50). -/
def parseNumber : List Char → Option Nat
  | [] => none
  | '0' :: 'x' :: c :: cs => digitsFrom 16 0 (c :: cs)
  | c :: cs => digitsFrom 10 0 (c :: cs)

/-- Operands: numbers with a comma between each two. -/
def parseOperands : List (List Char) → Option (List Nat)
  | [] => some []
  | [t] => (parseNumber t).map fun n => [n]
  | t :: comma :: rest =>
    if comma = [','] && !rest.isEmpty then
      match parseNumber t, parseOperands rest with
      | some n, some ns => some (n :: ns)
      | _, _ => none
    else none

/-- A mnemonic with its operands as one line of the notation. -/
def lineOf (mnemonic : List Char) (operands : Option (List Nat)) : Except AsmError AsmLine :=
  if mnemonic = ['N', 'O', 'P'] then
    (match operands with | some [] => .ok .nop | _ => .error .badOperands)
  else if mnemonic = ['S', 'T', 'A', 'R', 'T'] then
    (match operands with | some [] => .ok .start | _ => .error .badOperands)
  else if mnemonic = ['P', 'U', 'S', 'H'] then
    (match operands with | some [l0, d0, l1, d1] => .ok (.push l0 d0 l1 d1) | _ => .error .badOperands)
  else if mnemonic = ['F', 'I', 'N', 'I', 'S', 'H'] then
    (match operands with | some [] => .ok .finish | _ => .error .badOperands)
  else if mnemonic = ['R', 'E', 'C'] then
    (match operands with | some [m, s] => .ok (.recLine m s) | _ => .error .badOperands)
  else if mnemonic = ['B', 'Y', 'T', 'E'] then
    (match operands with | some [v, m, s0, s1] => .ok (.byteLine v m s0 s1) | _ => .error .badOperands)
  else .error .unknownMnemonic

/-- The operations of one line of text: none for a line that is blank or only a comment. -/
def assembleText (a : Level) (text : List Char) : Except AsmError (List Instr) :=
  match tokensFrom [] (stripComment text) with
  | [] => .ok []
  | mnemonic :: rest =>
    match lineOf mnemonic (parseOperands rest) with
    | .ok line => assemble a line
    | .error e => .error e

end Sys2Proof.Machine
end

