-- ==== Sys2Proof/Machine/Call.lean ====
section
/-! DEFINITION. A decode call as a run of edges (spec/41_accumulator.md R62): which inputs begin one, which records it pushes,
which inputs end it. Used by statements; no step of the machine calls anything in this file. -/

namespace Sys2Proof

/-- An edge that begins a decode call: a reset, a START or a FINISH (R62). -/
def Inputs.beginsCall (e : Inputs) : Bool :=
  (e.rst == 1#1) || (decode e.word == .start) || (decode e.word == .finish)

/-- An edge that ends a decode call: FINISH with `rst` = 0 (R62). -/
def Inputs.endsCall (e : Inputs) : Bool := (e.rst == 0#1) && (decode e.word == .finish)

/-- An idle edge: NOP with `rst` = 0 (R63, R92). -/
def Inputs.idles (e : Inputs) : Bool := (e.rst == 0#1) && (decode e.word == .nop)

end Sys2Proof

namespace Sys2Proof.Machine

/-- The records that a run of PUSH and NOP edges with `rst` = 0 pushes, in order (R62); none if another operation or a reset
stands among them. -/
def callRecords : List Inputs → Option (List PulseRecord)
  | [] => some []
  | e :: es =>
    if e.rst = 1#1 then none
    else
      match decode e.word with
      | .nop => callRecords es
      | .push l0 d0 l1 d1 => (callRecords es).map fun rs => { l0 := l0, d0 := d0, l1 := l1, d1 := d1 } :: rs
      | .start => none
      | .finish => none

end Sys2Proof.Machine
end

