-- ==== Sys2Proof/Machine/Reference.lean ====
section
/-! DEFINITION. The reference function `Decode(seq)` of spec/42_checksum.md R75, written from the source's algorithm and not
from the core's registers; the closed form of a captured byte (spec/20_memory.md R29, R30); and the data bits of a frame
(R79, spec/30_encoding.md R51). No step of the machine calls anything in this file. -/

namespace Sys2Proof.Machine

/-- The outcome of one decode call (R75, R81): there is one failure and it carries nothing. -/
inductive Decoded where
  | fail
  | success (address command : Word)
deriving DecidableEq, Repr

/-- The loop variables of R75: `acc` and `b[0..3]`. -/
structure Scan where
  acc : Byte
  b : Slots
deriving DecidableEq, Repr

/-- R75 steps 3 and 4 for the record of index `i`. -/
def scanRecord (cfg : Config) (v : Scan) (i : Nat) (r : PulseRecord) : Scan :=
  if (i - 1) % 8 = 7 then { acc := 0x00#8, b := v.b.set (BitVec.ofNat 2 ((i - 1) / 8)) (accNext cfg v.acc r) }
  else { v with acc := accNext cfg v.acc r }

/-- R75's loop over consecutive records, the first of index `i`. -/
def scanFrom (cfg : Config) : Nat → List PulseRecord → Scan → Scan
  | _, [], v => v
  | i, r :: rs, v => scanFrom cfg (i + 1) rs (scanRecord cfg v i r)

/-- The four bytes that R75 has captured after the records of index 1..32. -/
def capturedBytes (cfg : Config) (dataRecords : List PulseRecord) : Slots :=
  (scanFrom cfg 1 dataRecords { acc := 0x00#8, b := Slots.zero }).b

/-- `Decode(seq)` (R75). `seq[33]` and later elements are counted, never read. -/
def referenceDecode (cfg : Config) (seq : List PulseRecord) : Decoded :=
  if seq.length < Protocol.FRAME_RECORDS then .fail
  else
    match seq with
    | [] => .fail
    | header :: rest =>
      if hdrMatch cfg header then
        let b := capturedBytes cfg (rest.take Protocol.DATA_BITS)
        if chkOk b.addr b.addrComp b.cmd b.cmdComp then .success (b.addr.setWidth 32) (b.cmd.setWidth 32) else .fail
      else .fail

/-- `OK` for an outcome (R76). -/
def Decoded.okBit : Decoded → Bool
  | .fail => false
  | .success _ _ => true

/-- `ADDR_OUT` for an outcome (R76). -/
def Decoded.addrWord : Decoded → Word
  | .fail => 0x00000000#32
  | .success a _ => a

/-- `CMD_OUT` for an outcome (R76). -/
def Decoded.cmdWord : Decoded → Word
  | .fail => 0x00000000#32
  | .success _ c => c

/-- The bit values of the recognized records, in arrival order (R30). -/
def recognizedBits (cfg : Config) (rs : List PulseRecord) : List Bool :=
  rs.filterMap fun r =>
    match classify cfg r with
    | .one => some true
    | .zero => some false
    | .unrec => none

/-- R30's sum with the first of the bits at position `p`: bit i of the list adds `2^(p + i)`. -/
def bitsAt (p : Nat) : List Bool → Nat
  | [] => 0
  | b :: bs => b.toNat * 2 ^ p + bitsAt (p + 1) bs

/-- The byte captured from eight records (R30): the n recognized bits fill bits 7 down to 8 - n, the last one at bit 7. -/
def capturedByte (cfg : Config) (rs : List PulseRecord) : Byte :=
  BitVec.ofNat 8 (bitsAt (8 - (recognizedBits cfg rs).length) (recognizedBits cfg rs))

/-- The class that carries a bit (R79). -/
def classOfBit (b : Bool) : BitClass := if b then .one else .zero

/-- Bit `j` of byte `k` of `[a, ~a, c, ~c]` (R79). -/
def frameBit (a c : Byte) (k j : Nat) : Bool :=
  match k with
  | 0 => a.getLsbD j
  | 1 => (~~~a).getLsbD j
  | 2 => c.getLsbD j
  | _ => (~~~c).getLsbD j

end Sys2Proof.Machine
end

