-- ==== Sys2Proof/Safety.lean ====
section
/-! DEFINITION. What statements are stated in: the invariants of spec/10_state.md R22, reachability, and runs of the host's
core over several edges. -/

namespace Sys2Proof.Machine

/-- I1 (R22). -/
abbrev State.InvCount (s : State) : Prop := s.cnt.toNat ≤ 34

/-- I2 (R22). -/
abbrev State.InvAcc (s : State) : Prop := s.cnt.toNat ∈ [0, 1, 9, 17, 25, 33, 34] → s.acc = 0x00#8

/-- I3 (R22). -/
abbrev State.InvFresh (s : State) : Prop := s.cnt.toNat = 0 → s.hdrOk = false ∧ s.slot = Slots.zero

/-- I4 (R22): a slot not yet captured holds 0. -/
abbrev State.InvSlots (s : State) : Prop :=
  (s.cnt.toNat ≤ 8 → s.slot.addr = 0x00#8) ∧ (s.cnt.toNat ≤ 16 → s.slot.addrComp = 0x00#8)
    ∧ (s.cnt.toNat ≤ 24 → s.slot.cmd = 0x00#8) ∧ (s.cnt.toNat ≤ 32 → s.slot.cmdComp = 0x00#8)

/-- I5 (R22): bits 31:8 of both result words are 0. -/
abbrev State.InvWidth (s : State) : Prop :=
  s.addrOut.extractLsb' 8 24 = 0x000000#24 ∧ s.cmdOut.extractLsb' 8 24 = 0x000000#24

/-- I6 (R22): a failed outcome shows zero outputs. -/
abbrev State.InvFailed (s : State) : Prop := s.ok = false → s.addrOut = 0x00000000#32 ∧ s.cmdOut = 0x00000000#32

/-- R22: I1 to I6 together. -/
abbrev State.Inv (s : State) : Prop :=
  s.InvCount ∧ s.InvAcc ∧ s.InvFresh ∧ s.InvSlots ∧ s.InvWidth ∧ s.InvFailed

/-- The states a core can be in after a reset edge has occurred (R95: "A claim about the core should take \"a reset edge has
occurred\" as a premise"), whatever state it was in before and whatever the host drives. -/
inductive Reachable : State → Prop where
  | resetEdge (s : State) : Reachable s.applyReset
  | step (s t : State) : Reachable s → Sys2Proof.Machine.step s = .next t → Reachable t

/-- `k` steps of the host's core, one edge each. -/
def run (k : Nat) (s : State) : Host.Outcome State Fault Refusal := Host.Core.run Sys2Proof.core k s

/-- A safe run: the core answers a next state at each of `k` edges (R61, R99). -/
def SafeRun (k : Nat) (s : State) : Prop := ∃ t, run k s = .next t

end Sys2Proof.Machine
end

