-- ==== Sys2Proof/Certificates/Slice0/Obligations.lean ====
section
/-! DEFINITION. The statements for the provers. An equality `exec i s = .next { s with … }` says the whole next state, so it is
the operation's result, its frame and its completion in one. -/

open Sys2Proof Sys2Proof.Machine

/-! ### The command word -/

/-- Decoding the word of any operation gives the operation back, every operand at every value (R43, R44, R45). -/
def Obligations.DecodeOfEncode : Prop := ∀ i : Instr, i.wellFormed = true → decode (encode i) = i

/-- Encoding what a word decodes to gives the word back but for the bits R47 says its operation ignores. -/
def Obligations.EncodeOfDecodeKeepsOperandBits : Prop :=
  ∀ w : CommandWord, encode (decode w) = w &&& (decode w).operandMask

/-- R44: the operation is selected by `OP` alone, row by row of its table; "Every value of `OP` names an operation". -/
def Obligations.OperationSelectedByOpAlone : Prop :=
  ∀ w : CommandWord,
    (w &&& 0xC00000000#36 = 0x000000000#36 ↔ decode w = .nop)
    ∧ (w &&& 0xC00000000#36 = 0x400000000#36 ↔ decode w = .start)
    ∧ (w &&& 0xC00000000#36 = 0x800000000#36 ↔ ∃ l0 d0 l1 d1, decode w = .push l0 d0 l1 d1)
    ∧ (w &&& 0xC00000000#36 = 0xC00000000#36 ↔ decode w = .finish)
    ∧ (decode w = .nop ∨ decode w = .start ∨ (∃ l0 d0 l1 d1, decode w = .push l0 d0 l1 d1) ∨ decode w = .finish)

/-- R45: the four fields of the record that a PUSH takes from `W`. -/
def Obligations.PushRecordFromWord : Prop :=
  ∀ (w : CommandWord) (s : State), w &&& 0xC00000000#36 = 0x800000000#36 →
    decode w = .push (w.extractLsb' 16 1) (w.extractLsb' 0 16) (w.extractLsb' 33 1) (w.extractLsb' 17 16)
    ∧ recordOf w =
        { l0 := w.extractLsb' 16 1, d0 := w.extractLsb' 0 16, l1 := w.extractLsb' 33 1, d1 := w.extractLsb' 17 16 }
    ∧ exec (decode w) s = .next (pushRecord (recordOf w) s)

/-- Words written out by the spec decode to the operation they stand for (95_test_vectors.md sections 2.6 and 4;
0x800000000 is PUSH's row of R44). -/
def Obligations.SpecWordsDecode : Prop :=
  decode 0x000000000#36 = .nop ∧ decode 0x20D340230#36 = .nop ∧ decode 0x400000000#36 = .start
  ∧ decode 0xC00000000#36 = .finish ∧ decode 0x800000000#36 = .push 0#1 0#16 0#1 0#16
  ∧ decode 0xA23282328#36 = .push 0#1 9000#16 1#1 4500#16 ∧ decode 0xA0D340230#36 = .push 0#1 560#16 1#1 1690#16
  ∧ decode 0xA00010000#36 = .push 1#1 0#16 1#1 0#16

/-- R47: bits 15 and 32 never matter, and no bit below `OP` does unless `OP` is PUSH. -/
def Obligations.IgnoredBitsNeverChangeTheResult : Prop :=
  ∀ (w w' : CommandWord) (s : State), opField w = opField w' →
    (opField w = 0b10#2 → w &&& 0xEFFFF7FFF#36 = w' &&& 0xEFFFF7FFF#36) → exec (decode w) s = exec (decode w') s

/-- R51: the two pseudo-operations, bit by bit. -/
def Obligations.PseudoOperationsExpand : Prop :=
  ∀ (a : Level) (v m s s0 s1 : Nat),
    expandLine a (.recLine m s) = [.push a (BitVec.ofNat 16 m) (1#1 - a) (BitVec.ofNat 16 s)]
    ∧ (expandLine a (.byteLine v m s0 s1)).length = 8
    ∧ ∀ j, j < 8 →
        (expandLine a (.byteLine v m s0 s1))[j]?
          = (expandLine a (.recLine m (if v.testBit j then s1 else s0)))[0]?

/-! ### The step -/

/-- R61: at an edge the core performs exactly one of reset, NOP, START, PUSH and FINISH, chosen in this order, and the step is
total. -/
def Obligations.StepPerformsExactlyOneOperation : Prop :=
  (∀ (s : State) (e : Inputs) (rest : List Inputs), s.inputs = e :: rest →
    (e.rst = 1#1 → step s = .next ({ s with inputs := rest } : State).applyReset)
    ∧ (e.rst = 0#1 → e.op = 0b00#2 → step s = exec .nop { s with inputs := rest })
    ∧ (e.rst = 0#1 → e.op = 0b01#2 → step s = exec .start { s with inputs := rest })
    ∧ (e.rst = 0#1 → e.op = 0b10#2 →
        step s = exec (.push e.recL0 e.recD0 e.recL1 e.recD1) { s with inputs := rest })
    ∧ (e.rst = 0#1 → e.op = 0b11#2 → step s = exec .finish { s with inputs := rest }))
  ∧ ∀ s : State, ∃ t : State, step s = .next t

/-- The instruction at the ports, decoded, is the one the step runs, on the state with that edge taken off the list. -/
def Obligations.StepRunsTheDecodedInstruction : Prop :=
  ∀ (s : State) (e : Inputs) (rest : List Inputs) (i : Instr), s.inputs = e :: rest → e.rst = 0#1 → decode e.word = i →
    step s = exec i { s with inputs := rest }

/-- THE MODEL'S CHOICE (log 4): at an edge nobody listed the ports hold a free value, and the step is R61's for it. -/
def Obligations.UnlistedEdgeTakesAFreeInput : Prop :=
  ∀ s : State, s.inputs = [] →
    step s = atEdge (Inputs.ofBits (Config.freeInput s.freeEdges)) { s with freeEdges := s.freeEdges + 1 }

/-- THE MODEL'S CHOICE (log 3 for `withFetchWord`, log 13 for `decodeTableWord`): a word of the opcode table placed on the ports
by `withFetchWord` is what the very next step runs. -/
def Obligations.PlacedWordRunsNext : Prop :=
  ∀ (s : State) (nbits w : Nat) (i : Instr), decodeTableWord nbits w = some i →
    step (s.withFetchWord nbits w) = exec i s

/-- R99: "The core never stalls": every run of any length from any state goes on. -/
def Obligations.EveryRunIsSafe : Prop := ∀ (k : Nat) (s : State), SafeRun k s

/-! ### Configuration and reset -/

/-- R93: an illegal configuration is refused, a legal one is built as given, and it cannot change. -/
def Obligations.IllegalConfigurationIsRefused : Prop :=
  (∀ (n tick10 activeLevel : Nat) (inputs : List Inputs),
    (State.construct n tick10 activeLevel inputs = .refused .illegalConfiguration ↔
      ¬ ((1 ≤ tick10 ∧ tick10 ≤ 65535) ∧ (activeLevel = 0 ∨ activeLevel = 1)
        ∧ Protocol.HDR_MARK_TOL ≤ Protocol.HDR_MARK_US ∧ Protocol.HDR_SPACE_TOL ≤ Protocol.HDR_SPACE_US
        ∧ Protocol.BIT_TOL ≤ Protocol.BIT_MARK_US ∧ Protocol.BIT_TOL ≤ Protocol.ONE_SPACE_US
        ∧ Protocol.BIT_TOL ≤ Protocol.ZERO_SPACE_US))
    ∧ ((1 ≤ tick10 ∧ tick10 ≤ 65535) → (activeLevel = 0 ∨ activeLevel = 1) →
        ∃ s : State, State.construct n tick10 activeLevel inputs = .next s
          ∧ s.cfg.tick10 = tick10 ∧ s.cfg.activeLevel.toNat = activeLevel ∧ s.inputs = inputs))
  ∧ ∀ s t : State, step s = .next t → t.cfg = s.cfg

/-- R94: at an edge with `rst` = 1 every register takes its reset value and the command word is ignored; several such edges
give the same state as one; the next PUSH is record 0. -/
def Obligations.ResetEdgeSetsEveryRegister : Prop :=
  (∀ (s : State) (e : Inputs) (rest : List Inputs), s.inputs = e :: rest → e.rst = 1#1 →
    step s = .next
      { cfg := s.cfg, cnt := 0#6, hdrOk := false, acc := 0x00#8,
        slot := { addr := 0x00#8, addrComp := 0x00#8, cmd := 0x00#8, cmdComp := 0x00#8 },
        done := false, ok := false, addrOut := 0x00000000#32, cmdOut := 0x00000000#32,
        inputs := rest, freeEdges := s.freeEdges })
  ∧ (∀ (s : State) (e : Inputs) (es rest : List Inputs), e.rst = 1#1 → (∀ x ∈ es, x.rst = 1#1) →
      s.inputs = e :: (es ++ rest) →
      run (es.length + 1) s = .next ({ s with inputs := rest } : State).applyReset)
  ∧ ∀ (s : State) (r : PulseRecord),
      exec (.push r.l0 r.d0 r.l1 r.d1) s.applyReset
        = .next { s.applyReset with hdrOk := hdrMatch s.cfg r, cnt := 1#6 }

/-- The registers of `State.reset` (the reset column of R13). -/
def Obligations.ResetStateHoldsResetValues : Prop :=
  State.reset.cnt = 0#6 ∧ State.reset.hdrOk = false ∧ State.reset.acc = 0x00#8
  ∧ (∀ k : BitVec 2, State.reset.slot.get k = 0x00#8) ∧ State.reset.done = false ∧ State.reset.ok = false
  ∧ State.reset.addrOut = 0x00000000#32 ∧ State.reset.cmdOut = 0x00000000#32

/-- R97 steps 1 and 2 (with R95, log 5: the register values of `State.construct` are free): after a legal core is built, one
reset edge gives the reset registers. -/
def Obligations.BootReachesTheResetRegisters : Prop :=
  ∀ (n tick10 activeLevel : Nat) (e : Inputs) (rest : List Inputs), 1 ≤ tick10 → tick10 ≤ 65535 → activeLevel ≤ 1 →
    e.rst = 1#1 →
    ∃ (s : State) (cfg : Config), State.construct n tick10 activeLevel (e :: rest) = .next s
      ∧ cfg.tick10 = tick10 ∧ cfg.activeLevel = BitVec.ofNat 1 activeLevel
      ∧ step s = .next (State.afterReset cfg rest 0)

/-- R95, last part: from ANY register values, a reset, START or FINISH edge leaves the transient registers 0, and a reset edge
leaves the output registers 0. -/
def Obligations.TransientRegistersDefinedByFirstReset : Prop :=
  ∀ (s : State) (e : Inputs) (rest : List Inputs), s.inputs = e :: rest → e.beginsCall = true →
    ∃ t : State, step s = .next t ∧ t.cnt = 0#6 ∧ t.hdrOk = false ∧ t.acc = 0x00#8 ∧ t.slot = Slots.zero
      ∧ (e.rst = 1#1 → t.done = false ∧ t.ok = false ∧ t.addrOut = 0x00000000#32 ∧ t.cmdOut = 0x00000000#32)

/-! ### NOP and START -/

/-- R63: NOP writes no field, whatever the record ports hold. -/
def Obligations.NopWritesNothing : Prop :=
  (∀ s : State, exec .nop s = .next s)
  ∧ ∀ (w : CommandWord) (s : State), opField w = 0b00#2 → exec (decode w) s = .next s

/-- R92: all state is held across any number of NOPs. -/
def Obligations.NopsHoldAllState : Prop :=
  ∀ (s : State) (es rest : List Inputs), (∀ e ∈ es, e.idles = true) → s.inputs = es ++ rest →
    run es.length s = .next { s with inputs := rest }

/-- R64: START clears the transient registers and `DONE`; the results hold; START twice is the same as START once, and right
after a FINISH or a reset START changes only `DONE`. The second clause is R64's own sentence; R36 (spec/20_memory.md) says in
general that no operation but NOP is idempotent, and that the model follows R64 there is THE MODEL'S CHOICE (log 18). -/
def Obligations.StartAbandonsTheCall : Prop :=
  (∀ s : State, exec .start s = .next
    { s with
      cnt := 0#6, hdrOk := false, acc := 0x00#8,
      slot := { addr := 0x00#8, addrComp := 0x00#8, cmd := 0x00#8, cmdComp := 0x00#8 }, done := false })
  ∧ (∀ s t : State, exec .start s = .next t → exec .start t = .next t)
  ∧ ∀ s t : State, exec .finish s = .next t ∨ t = s.applyReset → exec .start t = .next { t with done := false }

/-! ### PUSH -/

/-- R65: a PUSH clears `DONE` and is a header, a data bit or a tail by `CNT`. -/
def Obligations.PushChosenByCount : Prop :=
  ∀ (l0 : Level) (d0 : Ticks) (l1 : Level) (d1 : Ticks) (s : State),
    (s.cnt.toNat = 0 →
      exec (.push l0 d0 l1 d1) s
        = .next (pushHeader { l0 := l0, d0 := d0, l1 := l1, d1 := d1 } { s with done := false }))
    ∧ (1 ≤ s.cnt.toNat → s.cnt.toNat ≤ 32 →
      exec (.push l0 d0 l1 d1) s
        = .next (pushData { l0 := l0, d0 := d0, l1 := l1, d1 := d1 } { s with done := false }))
    ∧ (s.cnt.toNat = 33 ∨ s.cnt.toNat = 34 →
      exec (.push l0 d0 l1 d1) s = .next (pushTail { s with done := false }))

/-- R66: the PUSH of record 0 writes the header check to `HDR_OK` and counts. -/
def Obligations.PushHeaderWritesHdrOk : Prop :=
  ∀ (r : PulseRecord) (s : State), s.cnt = 0#6 →
    exec (.push r.l0 r.d0 r.l1 r.d1) s
      = .next { s with done := false, hdrOk := hdrMatch s.cfg r, cnt := 1#6 }

/-- R68: the PUSH of a data-bit record shifts, and at records 8, 16, 24 and 32 captures the completed byte. -/
def Obligations.PushDataShiftsAndCaptures : Prop :=
  ∀ (r : PulseRecord) (s : State),
    (1 ≤ s.cnt.toNat → s.cnt.toNat ≤ 32 → s.cnt.toNat ∉ [8, 16, 24, 32] →
      exec (.push r.l0 r.d0 r.l1 r.d1) s
        = .next { s with done := false, acc := accNext s.cfg s.acc r, cnt := s.cnt + 1#6 })
    ∧ (s.cnt.toNat = 8 →
      exec (.push r.l0 r.d0 r.l1 r.d1) s
        = .next { s with
            done := false, acc := 0x00#8, cnt := 9#6, slot := { s.slot with addr := accNext s.cfg s.acc r } })
    ∧ (s.cnt.toNat = 16 →
      exec (.push r.l0 r.d0 r.l1 r.d1) s
        = .next { s with
            done := false, acc := 0x00#8, cnt := 17#6, slot := { s.slot with addrComp := accNext s.cfg s.acc r } })
    ∧ (s.cnt.toNat = 24 →
      exec (.push r.l0 r.d0 r.l1 r.d1) s
        = .next { s with
            done := false, acc := 0x00#8, cnt := 25#6, slot := { s.slot with cmd := accNext s.cfg s.acc r } })
    ∧ (s.cnt.toNat = 32 →
      exec (.push r.l0 r.d0 r.l1 r.d1) s
        = .next { s with
            done := false, acc := 0x00#8, cnt := 33#6, slot := { s.slot with cmdComp := accNext s.cfg s.acc r } })

/-- R69: the terminating record and later ones are only counted, with saturation at 34; their contents do not matter. -/
def Obligations.PushTailOnlyCounts : Prop :=
  ∀ (r : PulseRecord) (s : State),
    (s.cnt = 33#6 → exec (.push r.l0 r.d0 r.l1 r.d1) s = .next { s with done := false, cnt := 34#6 })
    ∧ (s.cnt = 34#6 → exec (.push r.l0 r.d0 r.l1 r.d1) s = .next { s with done := false })

/-- THE MODEL'S CHOICE (log 6): a `CNT` of 35..63, which R14 says never occurs and only a core before its first reset can hold,
takes the last branch of R65 and R69 as written. -/
def Obligations.PushAboveThirtyFourOnlyClearsDone : Prop :=
  ∀ (r : PulseRecord) (s : State), 35 ≤ s.cnt.toNat →
    exec (.push r.l0 r.d0 r.l1 r.d1) s = .next { s with done := false }

/-- PUSH completes in every state with every record, and its frame: what it may change is `DONE`, `CNT`, `HDR_OK` at record 0,
`ACC` at a data-bit record, and `SLOT[k]` at record 8k + 8. -/
def Obligations.PushCompletesWithItsFrame : Prop :=
  ∀ (l0 : Level) (d0 : Ticks) (l1 : Level) (d1 : Ticks) (s : State),
    ∃ t : State, exec (.push l0 d0 l1 d1) s = .next t ∧ t.done = false
      ∧ t.ok = s.ok ∧ t.addrOut = s.addrOut ∧ t.cmdOut = s.cmdOut
      ∧ t.cfg = s.cfg ∧ t.inputs = s.inputs ∧ t.freeEdges = s.freeEdges
      ∧ (s.cnt.toNat ≠ 0 → t.hdrOk = s.hdrOk)
      ∧ (s.cnt.toNat = 0 ∨ 33 ≤ s.cnt.toNat → t.acc = s.acc)
      ∧ ∀ k : BitVec 2, s.cnt.toNat ≠ 8 * k.toNat + 8 → t.slot.get k = s.slot.get k

/-- R67: the accumulator update of one data-bit record. -/
def Obligations.AccumulatorFollowsTheClass : Prop :=
  ∀ (cfg : Config) (acc : Byte) (r : PulseRecord),
    (classify cfg r = .one → accNext cfg acc r = ((acc >>> 1) ||| 0x80#8) &&& 0xFF#8)
    ∧ (classify cfg r = .zero → accNext cfg acc r = acc >>> 1)
    ∧ (classify cfg r = .unrec → accNext cfg acc r = acc)

/-- R59: an unrecognized data-bit record adds no bit while the position still advances; it ends nothing and sets no flag. -/
def Obligations.UnrecognizedRecordAddsNoBit : Prop :=
  ∀ (r : PulseRecord) (s : State), 1 ≤ s.cnt.toNat → s.cnt.toNat ≤ 32 → classify s.cfg r = .unrec →
    ∃ t : State, exec (.push r.l0 r.d0 r.l1 r.d1) s = .next t ∧ t.cnt = s.cnt + 1#6
      ∧ t.done = false ∧ t.hdrOk = s.hdrOk ∧ t.ok = s.ok ∧ t.addrOut = s.addrOut ∧ t.cmdOut = s.cmdOut
      ∧ (s.cnt.toNat % 8 ≠ 0 → t.acc = s.acc ∧ t.slot = s.slot)
      ∧ (s.cnt.toNat % 8 = 0 → t.slot = s.slot.set (byteIdx s.cnt) s.acc)

/-! ### The classifier -/

/-- R52: the conversion to microseconds; bit 15 never matters; the result fits 19 bits. -/
def Obligations.DurationConversion : Prop :=
  ∀ (cfg : Config) (d : Ticks),
    durUs cfg d = d.toNat % 32768 * 10 / cfg.tick10 ∧ durUs cfg d ≤ 327670 ∧ durUs cfg d < 2 ^ 19
    ∧ ∀ d' : Ticks, d &&& 0x7FFF#16 = d' &&& 0x7FFF#16 → durUs cfg d' = durUs cfg d

/-- R53: both ends of a window are inside and the next values outside. -/
def Obligations.WindowEndsAreIncluded : Prop :=
  ∀ x c t : Nat, t ≤ c →
    (inWin x c t = true ↔ c - t ≤ x ∧ x ≤ c + t)
    ∧ inWin (c - t) c t = true ∧ inWin (c + t) c t = true ∧ inWin (c + t + 1) c t = false
    ∧ (1 ≤ c - t → inWin (c - t - 1) c t = false)

/-- R55: comparing raw ticks with the window's ends times `TICK10` gives the same result as dividing. -/
def Obligations.RawTickComparisonAgrees : Prop :=
  ∀ (cfg : Config) (d : Ticks) (lo hi : Nat),
    (lo ≤ durUs cfg d ∧ durUs cfg d ≤ hi) ↔
      (lo * cfg.tick10 ≤ (d &&& 0x7FFF#16).toNat * 10 ∧ (d &&& 0x7FFF#16).toNat * 10 ≤ (hi + 1) * cfg.tick10 - 1)

/-- R54: the five windows under the default constants, and what each is used for. -/
def Obligations.DefaultWindowsAreTheseIntervals : Prop :=
  (∀ x : Nat,
    (inWin x Protocol.HDR_MARK_US Protocol.HDR_MARK_TOL = true ↔ 7000 ≤ x ∧ x ≤ 11000)
    ∧ (inWin x Protocol.HDR_SPACE_US Protocol.HDR_SPACE_TOL = true ↔ 2500 ≤ x ∧ x ≤ 6500)
    ∧ (inWin x Protocol.BIT_MARK_US Protocol.BIT_TOL = true ↔ 160 ≤ x ∧ x ≤ 960)
    ∧ (inWin x Protocol.ONE_SPACE_US Protocol.BIT_TOL = true ↔ 1290 ≤ x ∧ x ≤ 2090)
    ∧ (inWin x Protocol.ZERO_SPACE_US Protocol.BIT_TOL = true ↔ 160 ≤ x ∧ x ≤ 960))
  ∧ ∀ (cfg : Config) (r : PulseRecord), r.l0 = cfg.activeLevel → r.l1 ≠ cfg.activeLevel →
    (hdrMatch cfg r = true ↔
      (7000 ≤ durUs cfg r.d0 ∧ durUs cfg r.d0 ≤ 11000) ∧ 2500 ≤ durUs cfg r.d1 ∧ durUs cfg r.d1 ≤ 6500)
    ∧ (classify cfg r = .one ↔
      (160 ≤ durUs cfg r.d0 ∧ durUs cfg r.d0 ≤ 960) ∧ 1290 ≤ durUs cfg r.d1 ∧ durUs cfg r.d1 ≤ 2090)
    ∧ (classify cfg r = .zero ↔
      (160 ≤ durUs cfg r.d0 ∧ durUs cfg r.d0 ≤ 960) ∧ 160 ≤ durUs cfg r.d1 ∧ durUs cfg r.d1 ≤ 960)

/-- R56: all four conditions of a valid header. -/
def Obligations.HeaderMatchConditions : Prop :=
  ∀ (cfg : Config) (r : PulseRecord),
    hdrMatch cfg r = true ↔
      r.l0 = cfg.activeLevel ∧ r.l1 ≠ cfg.activeLevel
      ∧ inWin (durUs cfg r.d0) Protocol.HDR_MARK_US Protocol.HDR_MARK_TOL = true
      ∧ inWin (durUs cfg r.d1) Protocol.HDR_SPACE_US Protocol.HDR_SPACE_TOL = true

/-- R57: the three classes. -/
def Obligations.ClassifyByWindows : Prop :=
  ∀ (cfg : Config) (r : PulseRecord) (shape : Prop),
    (shape ↔ r.l0 = cfg.activeLevel ∧ r.l1 ≠ cfg.activeLevel
      ∧ inWin (durUs cfg r.d0) Protocol.BIT_MARK_US Protocol.BIT_TOL = true) →
    (classify cfg r = .one ↔ shape ∧ inWin (durUs cfg r.d1) Protocol.ONE_SPACE_US Protocol.BIT_TOL = true)
    ∧ (classify cfg r = .zero ↔ shape ∧ inWin (durUs cfg r.d1) Protocol.ZERO_SPACE_US Protocol.BIT_TOL = true)
    ∧ (classify cfg r = .unrec ↔
        ¬ (shape ∧ inWin (durUs cfg r.d1) Protocol.ONE_SPACE_US Protocol.BIT_TOL = true)
        ∧ ¬ (shape ∧ inWin (durUs cfg r.d1) Protocol.ZERO_SPACE_US Protocol.BIT_TOL = true))

/-- R58: no record is both `ONE` and `ZERO`, so the order of the tests changes nothing; a second half of 1120 µs is `UNREC`. -/
def Obligations.NoRecordIsBothOneAndZero : Prop :=
  ∀ (cfg : Config) (r : PulseRecord),
    ¬ (isOne cfg r = true ∧ isZero cfg r = true)
    ∧ classify cfg r = (if isZero cfg r then .zero else if isOne cfg r then .one else .unrec)
    ∧ (classify cfg r = .unrec ↔ isOne cfg r = false ∧ isZero cfg r = false)
    ∧ (durUs cfg r.d1 = 1120 → classify cfg r = .unrec)

/-! ### Byte assembly -/

/-- R15: the two views of `CNT`; a data-bit record ends its byte when `BITPOS` = 7; the position advances for every data-bit
record, recognized or not. -/
def Obligations.PositionViewsOfCount : Prop :=
  ∀ (r : PulseRecord) (s : State), 1 ≤ s.cnt.toNat → s.cnt.toNat ≤ 32 →
    (bitPos s.cnt).toNat = (s.cnt.toNat - 1) % 8 ∧ (byteIdx s.cnt).toNat = (s.cnt.toNat - 1) / 8
    ∧ (bitPos s.cnt = 7#3 ↔ s.cnt.toNat ∈ [8, 16, 24, 32])
    ∧ ∃ t : State, exec (.push r.l0 r.d0 r.l1 r.d1) s = .next t ∧ t.cnt.toNat = s.cnt.toNat + 1

/-- R29: eight recognized records push a byte least significant bit first. -/
def Obligations.RecognizedByteIsLsbFirst : Prop :=
  ∀ (s : State) (k : BitVec 2) (rs : List PulseRecord) (rest : List Inputs) (v : Byte),
    s.cnt.toNat = 8 * k.toNat + 1 → s.acc = 0x00#8 → rs.length = 8 →
    (∀ j r, rs[j]? = some r → classify s.cfg r = classOfBit (v.getLsbD j)) →
    s.inputs = rs.map Inputs.drivePush ++ rest →
    ∃ t : State, run 8 s = .next t ∧ t.slot.get k = v

/-- R30: the byte captured from eight records of any classes. -/
def Obligations.CapturedByteOfAnyRecords : Prop :=
  ∀ (s : State) (k : BitVec 2) (rs : List PulseRecord) (rest : List Inputs),
    s.cnt.toNat = 8 * k.toNat + 1 → s.acc = 0x00#8 → rs.length = 8 →
    s.inputs = rs.map Inputs.drivePush ++ rest →
    ∃ t : State, run 8 s = .next t ∧ t.slot.get k = capturedByte s.cfg rs
      ∧ (recognizedBits s.cfg rs).length ≤ 8
      ∧ (∀ i b, (recognizedBits s.cfg rs)[i]? = some b →
          (t.slot.get k).getLsbD (8 - (recognizedBits s.cfg rs).length + i) = b)
      ∧ (∀ j, j < 8 - (recognizedBits s.cfg rs).length → (t.slot.get k).getLsbD j = false)
      ∧ t.cnt.toNat = 8 * k.toNat + 9 ∧ t.acc = 0x00#8 ∧ t.inputs = rest

/-- R32: after a header and 32 recognized records, data record 1 + j carries bit `j` of the frame word. -/
def Obligations.FrameWordHoldsTheDataBits : Prop :=
  ∀ (s : State) (header : PulseRecord) (rs : List PulseRecord) (rest : List Inputs) (f : Word),
    s.cnt = 0#6 → s.acc = 0x00#8 → rs.length = 32 →
    (∀ j r, rs[j]? = some r → classify s.cfg r = classOfBit (f.getLsbD j)) →
    s.inputs = (header :: rs).map Inputs.drivePush ++ rest →
    ∃ t : State, run 33 s = .next t ∧ t.slot.frameWord = f

/-- R51 with R29: the eight operations of a BYTE line whose durations lie in the windows put its byte into the slot. -/
def Obligations.ByteLineSendsItsByte : Prop :=
  ∀ (s : State) (k : BitVec 2) (v m s0 s1 : Nat) (rest : List Inputs),
    s.cnt.toNat = 8 * k.toNat + 1 → s.acc = 0x00#8 → (AsmLine.byteLine v m s0 s1).wellFormed = true →
    inWin (durUs s.cfg (BitVec.ofNat 16 m)) Protocol.BIT_MARK_US Protocol.BIT_TOL = true →
    inWin (durUs s.cfg (BitVec.ofNat 16 s0)) Protocol.ZERO_SPACE_US Protocol.BIT_TOL = true →
    inWin (durUs s.cfg (BitVec.ofNat 16 s1)) Protocol.ONE_SPACE_US Protocol.BIT_TOL = true →
    s.inputs = (expandLine s.cfg.activeLevel (.byteLine v m s0 s1)).map Inputs.drive ++ rest →
    ∃ t : State, run 8 s = .next t ∧ t.slot.get k = BitVec.ofNat 8 v

/-! ### FINISH and the results -/

/-- R72: each pair of bytes is complementary. -/
def Obligations.ChecksumIsComplement : Prop :=
  ∀ a ac c cc : Byte,
    (chkOk a ac c cc = true ↔ a = ac ^^^ 0xFF#8 ∧ c = cc ^^^ 0xFF#8)
    ∧ chkOk a a c cc = false ∧ (a = ac ^^^ 0xFF#8 ↔ ac = a ^^^ 0xFF#8)

/-- R73: FINISH writes the outcome, sets `DONE` and discards the transient state. -/
def Obligations.FinishWritesTheOutcome : Prop :=
  ∀ (s : State) (success : Bool),
    success = ((s.cnt.toNat == Protocol.FRAME_RECORDS) && s.hdrOk
      && chkOk s.slot.addr s.slot.addrComp s.slot.cmd s.slot.cmdComp) →
    exec .finish s = .next
      { s with
        ok := success, addrOut := if success then s.slot.addr.setWidth 32 else 0x00000000#32,
        cmdOut := if success then s.slot.cmd.setWidth 32 else 0x00000000#32, done := true,
        cnt := 0#6, hdrOk := false, acc := 0x00#8,
        slot := { addr := 0x00#8, addrComp := 0x00#8, cmd := 0x00#8, cmdComp := 0x00#8 } }

/-- R74: a call fails exactly when one of the four causes holds at FINISH, and the outcome does not say which: the outputs
are the same for all. -/
def Obligations.FinishFailsForItsCauses : Prop :=
  ∀ s : State, s.cnt.toNat ≤ 34 →
    ∃ t : State, exec .finish s = .next t
      ∧ (t.ok = false ↔
          s.cnt.toNat < 34 ∨ s.hdrOk = false ∨ s.slot.addr ≠ s.slot.addrComp ^^^ 0xFF#8
            ∨ s.slot.cmd ≠ s.slot.cmdComp ^^^ 0xFF#8)
      ∧ (t.ok = false → t.outputs = { done := 1#1, ok := 0#1, addrOut := 0x00000000#32, cmdOut := 0x00000000#32 })

/-- R36: a second FINISH right after a first one ends an empty call and fails. -/
def Obligations.SecondFinishFails : Prop :=
  ∀ s t : State, exec .finish s = .next t →
    exec .finish t = .next { t with ok := false, addrOut := 0x00000000#32, cmdOut := 0x00000000#32 }

/-- R19: FINISH sets `DONE`, START, PUSH and reset clear it, NOP leaves it; the port `done` shows it. -/
def Obligations.DoneMarksAFreshResult : Prop :=
  (∀ (i : Instr) (s : State), ∃ t : State, exec i s = .next t
    ∧ t.done = (match i with
        | .nop => s.done
        | .start => false
        | .push _ _ _ _ => false
        | .finish => true))
  ∧ (∀ s : State, s.applyReset.done = false)
  ∧ ∀ s : State, s.outputs.done = if s.done then 1#1 else 0#1

/-- R20: `OK` is the outcome of the most recent FINISH, written only by FINISH and reset; the port `ok` shows it. -/
def Obligations.OkHoldsTheLastOutcome : Prop :=
  (∀ s : State, ∃ t : State, exec .finish s = .next t ∧ t.ok = outcomeFlag s)
  ∧ (∀ (i : Instr) (s t : State), i ≠ .finish → exec i s = .next t → t.ok = s.ok)
  ∧ (∀ s : State, s.applyReset.ok = false)
  ∧ ∀ s : State, s.outputs.ok = if s.ok then 1#1 else 0#1

/-- R21: the result words: the two bytes widened after success, 0 after failure, written only by FINISH and reset, bits 31:8
always 0 once a reset edge has occurred; the ports show them. -/
def Obligations.ResultWordsHoldTheBytes : Prop :=
  (∀ s : State, ∃ t : State, exec .finish s = .next t
    ∧ (t.ok = true → t.addrOut = s.slot.addr.setWidth 32 ∧ t.cmdOut = s.slot.cmd.setWidth 32)
    ∧ (t.ok = false → t.addrOut = 0x00000000#32 ∧ t.cmdOut = 0x00000000#32))
  ∧ (∀ (i : Instr) (s t : State), i ≠ .finish → exec i s = .next t → t.addrOut = s.addrOut ∧ t.cmdOut = s.cmdOut)
  ∧ (∀ s : State, s.applyReset.addrOut = 0x00000000#32 ∧ s.applyReset.cmdOut = 0x00000000#32)
  ∧ (∀ s : State, Reachable s → s.addrOut.extractLsb' 8 24 = 0x000000#24 ∧ s.cmdOut.extractLsb' 8 24 = 0x000000#24)
  ∧ ∀ s : State, s.outputs.addrOut = s.addrOut ∧ s.outputs.cmdOut = s.cmdOut

/-- R98: a result stays on `ok`, `addr_out` and `cmd_out` until the next FINISH or reset, and on `done` as long as only NOPs
follow. -/
def Obligations.ResultStaysUntilNextFinish : Prop :=
  ∀ (s : State) (es rest : List Inputs), (∀ e ∈ es, e.rst = 0#1 ∧ decode e.word ≠ .finish) → s.inputs = es ++ rest →
    ∃ t : State, run es.length s = .next t ∧ t.ok = s.ok ∧ t.addrOut = s.addrOut ∧ t.cmdOut = s.cmdOut
      ∧ ((∀ e ∈ es, e.idles = true) → t.done = s.done)

/-- R26: no port shows a hidden register: while no FINISH comes, the outputs after an edge depend on the outputs before it and
on the inputs alone. -/
def Obligations.HiddenRegistersDoNotShow : Prop :=
  ∀ (s s' t t' : State) (e : Inputs) (rest rest' : List Inputs), s.inputs = e :: rest → s'.inputs = e :: rest' →
    e.endsCall = false → s.outputs = s'.outputs → step s = .next t → step s' = .next t' → t.outputs = t'.outputs

/-! ### Invariants -/

/-- R22: every step keeps I1 to I6, from any state that has them. -/
def Obligations.EveryStepKeepsTheInvariants : Prop := ∀ s t : State, s.Inv → step s = .next t → t.Inv

/-- The reset state has I1 to I6. -/
def Obligations.ResetHasTheInvariants : Prop := State.reset.Inv

/-- R22: every state reached once a reset edge has occurred satisfies I1 to I6. -/
def Obligations.ReachableStatesHaveTheInvariants : Prop := ∀ s : State, Reachable s → s.Inv

/-- R24 and R71: `CNT` never wraps; a PUSH advances it up to 34, START and FINISH return it to 0, nothing else changes it. -/
def Obligations.CountAdvancesAndSaturates : Prop :=
  ∀ (s : State) (e : Inputs) (rest : List Inputs), s.cnt.toNat ≤ 34 → s.inputs = e :: rest → e.rst = 0#1 →
    ∃ t : State, step s = .next t
      ∧ t.cnt.toNat = (match decode e.word with
          | .nop => s.cnt.toNat
          | .start => 0
          | .push _ _ _ _ => min (s.cnt.toNat + 1) 34
          | .finish => 0)

/-! ### The decode call -/

/-- R76: after a call, begun in any state by a reset, START or FINISH, the core holds exactly the outcome of `Decode(seq)` and
no transient state, whatever NOPs stood between the records. -/
def Obligations.CallEqualsReferenceDecode : Prop :=
  ∀ (s : State) (lead : Inputs) (body : List Inputs) (fin : Inputs) (rest : List Inputs) (seq : List PulseRecord),
    lead.beginsCall = true → callRecords body = some seq → fin.endsCall = true →
    s.inputs = lead :: (body ++ fin :: rest) →
    run (body.length + 2) s = .next
      { s with
        cnt := 0#6, hdrOk := false, acc := 0x00#8, slot := Slots.zero, done := true,
        ok := (referenceDecode s.cfg seq).okBit, addrOut := (referenceDecode s.cfg seq).addrWord,
        cmdOut := (referenceDecode s.cfg seq).cmdWord, inputs := rest }

/-- R77: decoding the same sequence twice, from any two states of cores with one configuration, shows the same outputs. -/
def Obligations.SameSequenceSameOutcome : Prop :=
  ∀ (s s' : State) (lead lead' : Inputs) (body body' : List Inputs) (fin fin' : Inputs) (rest rest' : List Inputs)
    (seq : List PulseRecord),
    s.cfg = s'.cfg → lead.beginsCall = true → lead'.beginsCall = true →
    callRecords body = some seq → callRecords body' = some seq → fin.endsCall = true → fin'.endsCall = true →
    s.inputs = lead :: (body ++ fin :: rest) → s'.inputs = lead' :: (body' ++ fin' :: rest') →
    ∃ t t' : State, run (body.length + 2) s = .next t ∧ run (body'.length + 2) s' = .next t' ∧ t.outputs = t'.outputs

/-- R78: every call of fewer than 34 records fails, whatever its contents. -/
def Obligations.ShortSequencesFail : Prop :=
  ∀ (s : State) (lead : Inputs) (body : List Inputs) (fin : Inputs) (rest : List Inputs) (seq : List PulseRecord),
    lead.beginsCall = true → callRecords body = some seq → fin.endsCall = true → seq.length < 34 →
    s.inputs = lead :: (body ++ fin :: rest) →
    referenceDecode s.cfg seq = .fail
    ∧ ∃ t : State, run (body.length + 2) s = .next t
      ∧ t.outputs = { done := 1#1, ok := 0#1, addrOut := 0x00000000#32, cmdOut := 0x00000000#32 }

/-- R79: every validly timed frame of an address and a command byte decodes to exactly these. -/
def Obligations.ValidFramesDecode : Prop :=
  ∀ (cfg : Config) (a c : Byte) (header : PulseRecord) (rest : List PulseRecord),
    34 ≤ (header :: rest).length → hdrMatch cfg header = true →
    (∀ k j r, k < 4 → j < 8 → (header :: rest)[8 * k + 1 + j]? = some r →
      classify cfg r = classOfBit (frameBit a c k j)) →
    referenceDecode cfg (header :: rest) = .success (a.setWidth 32) (c.setWidth 32)

/-- R80: a sequence whose captured bytes fail the checksum fails, and so does its call, however well its records are timed. -/
def Obligations.BadChecksumFails : Prop :=
  ∀ (s : State) (lead : Inputs) (body : List Inputs) (fin : Inputs) (rest : List Inputs) (header : PulseRecord)
    (records : List PulseRecord) (b : Slots),
    lead.beginsCall = true → callRecords body = some (header :: records) → fin.endsCall = true →
    b = capturedBytes s.cfg (records.take 32) → chkOk b.addr b.addrComp b.cmd b.cmdComp = false →
    s.inputs = lead :: (body ++ fin :: rest) →
    referenceDecode s.cfg (header :: records) = .fail
    ∧ ∃ t : State, run (body.length + 2) s = .next t ∧ t.ok = false

/-- R70: a call whose header record fails the check fails, although the core goes on counting and accumulating. -/
def Obligations.HeaderFailureFailsTheCall : Prop :=
  ∀ (s : State) (lead : Inputs) (body : List Inputs) (fin : Inputs) (rest : List Inputs) (header : PulseRecord)
    (records : List PulseRecord),
    lead.beginsCall = true → callRecords body = some (header :: records) → fin.endsCall = true →
    hdrMatch s.cfg header = false → s.inputs = lead :: (body ++ fin :: rest) →
    (∃ u : State, run (body.length + 1) s = .next u ∧ u.cnt.toNat = min (header :: records).length 34)
    ∧ ∃ t : State, run (body.length + 2) s = .next t ∧ t.ok = false

/-- R26 and R69: records after index 33 are not observable, and the contents of the terminating record never matter. -/
def Obligations.RecordsAfterTheFrameAreIgnored : Prop :=
  ∀ (cfg : Config) (seq extra : List PulseRecord) (r : PulseRecord), 34 ≤ seq.length →
    referenceDecode cfg (seq ++ extra) = referenceDecode cfg seq
    ∧ referenceDecode cfg (seq.set 33 r) = referenceDecode cfg seq
end

