-- ==== Sys2Proof/Laws/Classifier.lean ====
section
/-! SUPPORT. The classifier's tests as propositions over numbers (spec/40_classifier.md). -/

namespace Sys2Proof.Machine

theorem maskedTicks_eq (d : Ticks) : maskedTicks d = d.toNat % 32768 := by
  simp only [maskedTicks, Protocol.DUR_MASK, BitVec.toNat_and]
  exact Nat.and_two_pow_sub_one_eq_mod d.toNat 15

theorem maskedTicks_lt (d : Ticks) : maskedTicks d < 32768 := by
  rw [maskedTicks_eq]; omega

@[simp] theorem active_iff (cfg : Config) (l : Level) : active cfg l = true ↔ l = cfg.activeLevel := by simp [active]

@[simp] theorem inactive_iff (cfg : Config) (l : Level) : inactive cfg l = true ↔ l ≠ cfg.activeLevel := by
  simp [inactive]

theorem inWin_iff (x c t : Nat) : inWin x c t = true ↔ c - t ≤ x ∧ x ≤ c + t := by simp [inWin]

/-- The microseconds of a duration against a bound, without the division. -/
theorem le_durUs_iff (cfg : Config) (d : Ticks) (n : Nat) :
    n ≤ durUs cfg d ↔ n * cfg.tick10 ≤ maskedTicks d * 10 := by
  unfold durUs
  rw [Nat.le_div_iff_mul_le (by have := cfg.legal; omega)]

theorem bitShape_iff (cfg : Config) (r : PulseRecord) :
    bitShape cfg r = true ↔ r.l0 = cfg.activeLevel ∧ r.l1 ≠ cfg.activeLevel
      ∧ inWin (durUs cfg r.d0) Protocol.BIT_MARK_US Protocol.BIT_TOL = true := by
  simp [bitShape, and_assoc]

theorem isOne_iff (cfg : Config) (r : PulseRecord) :
    isOne cfg r = true ↔
      bitShape cfg r = true ∧ inWin (durUs cfg r.d1) Protocol.ONE_SPACE_US Protocol.BIT_TOL = true := by
  simp [isOne]

theorem isZero_iff (cfg : Config) (r : PulseRecord) :
    isZero cfg r = true ↔
      bitShape cfg r = true ∧ inWin (durUs cfg r.d1) Protocol.ZERO_SPACE_US Protocol.BIT_TOL = true := by
  simp [isZero]

/-- The one-space and the zero-space window share no value under the default constants. -/
theorem one_and_zero_windows_disjoint (x : Nat) (h1 : inWin x Protocol.ONE_SPACE_US Protocol.BIT_TOL = true)
    (h0 : inWin x Protocol.ZERO_SPACE_US Protocol.BIT_TOL = true) : False := by
  simp only [inWin_iff, Protocol.ONE_SPACE_US, Protocol.ZERO_SPACE_US, Protocol.BIT_TOL] at h1 h0
  omega

theorem classify_eq_one_iff (cfg : Config) (r : PulseRecord) : classify cfg r = .one ↔ isOne cfg r = true := by
  unfold classify; split
  · simp [*]
  · split <;> simp [*]

end Sys2Proof.Machine
end

