-- ==== Sys2Proof/Laws/Decode.lean ====
section
/-! SUPPORT. The fields of a packed command word, and the ports against the word they carry. -/

namespace Sys2Proof

theorem packWord_bit (op : BitVec 2) (l1 : Level) (d1 : Ticks) (l0 : Level) (d0 : Ticks) (i : Nat) :
    (packWord op l1 d1 l0 d0).getLsbD i =
      if i < 16 then d0.getLsbD i
      else if i < 17 then l0.getLsbD (i - 16)
      else if i < 33 then d1.getLsbD (i - 17)
      else if i < 34 then l1.getLsbD (i - 33)
      else op.getLsbD (i - 34) := by
  unfold packWord
  simp only [BitVec.getLsbD_append]
  split
  · rfl
  · have e1 : i - 16 < 1 ↔ i < 17 := by omega
    have e2 : i - 17 < 16 ↔ i < 33 := by omega
    have e3 : i - 33 < 1 ↔ i < 34 := by omega
    have s1 : i - 16 - 1 = i - 17 := by omega
    have s2 : i - 17 - 16 = i - 33 := by omega
    have s3 : i - 33 - 1 = i - 34 := by omega
    simp only [e1, e2, e3, s1, s2, s3]

theorem opField_packWord (op : BitVec 2) (l1 : Level) (d1 : Ticks) (l0 : Level) (d0 : Ticks) :
    opField (packWord op l1 d1 l0 d0) = op := by
  apply BitVec.eq_of_getLsbD_eq
  intro i hi
  simp only [opField, BitVec.getLsbD_extractLsb', packWord_bit]
  have h1 : ¬ 34 + i < 16 := by omega
  have h2 : ¬ 34 + i < 17 := by omega
  have h3 : ¬ 34 + i < 33 := by omega
  have h4 : ¬ 34 + i < 34 := by omega
  simp [h1, h2, h3, hi]

theorem l1Field_packWord (op : BitVec 2) (l1 : Level) (d1 : Ticks) (l0 : Level) (d0 : Ticks) :
    l1Field (packWord op l1 d1 l0 d0) = l1 := by
  apply BitVec.eq_of_getLsbD_eq
  intro i hi
  simp only [l1Field, BitVec.getLsbD_extractLsb', packWord_bit]
  have h1 : ¬ 33 + i < 16 := by omega
  have h2 : ¬ 33 + i < 17 := by omega
  have h4 : 33 + i < 34 := by omega
  simp [h1, h2, h4, hi]

theorem d1Field_packWord (op : BitVec 2) (l1 : Level) (d1 : Ticks) (l0 : Level) (d0 : Ticks) :
    d1Field (packWord op l1 d1 l0 d0) = d1 := by
  apply BitVec.eq_of_getLsbD_eq
  intro i hi
  simp only [d1Field, BitVec.getLsbD_extractLsb', packWord_bit]
  have h1 : ¬ 17 + i < 16 := by omega
  have h3 : 17 + i < 33 := by omega
  simp [h1, h3, hi]

theorem l0Field_packWord (op : BitVec 2) (l1 : Level) (d1 : Ticks) (l0 : Level) (d0 : Ticks) :
    l0Field (packWord op l1 d1 l0 d0) = l0 := by
  apply BitVec.eq_of_getLsbD_eq
  intro i hi
  simp only [l0Field, BitVec.getLsbD_extractLsb', packWord_bit]
  have h2 : 16 + i < 17 := by omega
  simp [h2, hi]

theorem d0Field_packWord (op : BitVec 2) (l1 : Level) (d1 : Ticks) (l0 : Level) (d0 : Ticks) :
    d0Field (packWord op l1 d1 l0 d0) = d0 := by
  apply BitVec.eq_of_getLsbD_eq
  intro i hi
  simp [d0Field, packWord_bit, hi]

/-- A word is the packing of its own fields. -/
theorem packWord_fields (w : CommandWord) :
    packWord (opField w) (l1Field w) (d1Field w) (l0Field w) (d0Field w) = w := by
  apply BitVec.eq_of_getLsbD_eq
  intro i hi
  simp only [packWord_bit, opField, l1Field, d1Field, l0Field, d0Field, BitVec.getLsbD_extractLsb']
  split
  · simp [*]
  · split
    · have h : 16 + (i - 16) = i := by omega
      have h' : i - 16 < 1 := by omega
      simp [h, h']
    · split
      · have h : 17 + (i - 17) = i := by omega
        have h' : i - 17 < 16 := by omega
        simp [h, h']
      · split
        · have h : 33 + (i - 33) = i := by omega
          have h' : i - 33 < 1 := by omega
          simp [h, h']
        · have h : 34 + (i - 34) = i := by omega
          have h' : i - 34 < 2 := by omega
          simp [h, h']

@[simp] theorem Inputs.word_ofWord (rst : BitVec 1) (w : CommandWord) : (Inputs.ofWord rst w).word = w := by
  simp [Inputs.word, Inputs.ofWord, packWord_fields]

@[simp] theorem Inputs.rst_ofWord (rst : BitVec 1) (w : CommandWord) : (Inputs.ofWord rst w).rst = rst := rfl

@[simp] theorem Inputs.opField_word (e : Inputs) : opField e.word = e.op := opField_packWord _ _ _ _ _

/-- An input port of one bit that is not 1 is 0. -/
theorem bit_eq_zero_of_ne_one (b : BitVec 1) (h : b ≠ 1#1) : b = 0#1 := by
  revert h; revert b; decide

/-- The four values of a two-bit field. -/
theorem two_bits_cases (b : BitVec 2) : b = 0#2 ∨ b = 1#2 ∨ b = 2#2 ∨ b = 3#2 := by
  revert b; decide

/-- What a word decodes to, by its `OP` field: the one case analysis of the decoder. -/
theorem decode_cases (w : CommandWord) :
    (opField w = 0#2 ∧ decode w = .nop) ∨ (opField w = 1#2 ∧ decode w = .start)
    ∨ (opField w = 2#2 ∧ decode w = .push (l0Field w) (d0Field w) (l1Field w) (d1Field w))
    ∨ (opField w = 3#2 ∧ decode w = .finish) := by
  rcases two_bits_cases (opField w) with h | h | h | h <;> simp [decode, h]

end Sys2Proof
end

