-- ==== Sys2Proof/Laws/State.lean ====
section
/-! SUPPORT. One lemma per field per named update of State, each true by rfl, so that no later proof unfolds an update. -/

namespace Sys2Proof.Machine

/-! ### `State.setDone` -/

@[simp] theorem State.setDone_cfg (s : State) (b : Bool) : (s.setDone b).cfg = s.cfg := rfl

@[simp] theorem State.setDone_cnt (s : State) (b : Bool) : (s.setDone b).cnt = s.cnt := rfl

@[simp] theorem State.setDone_hdrOk (s : State) (b : Bool) : (s.setDone b).hdrOk = s.hdrOk := rfl

@[simp] theorem State.setDone_acc (s : State) (b : Bool) : (s.setDone b).acc = s.acc := rfl

@[simp] theorem State.setDone_slot (s : State) (b : Bool) : (s.setDone b).slot = s.slot := rfl

@[simp] theorem State.setDone_done (s : State) (b : Bool) : (s.setDone b).done = b := rfl

@[simp] theorem State.setDone_ok (s : State) (b : Bool) : (s.setDone b).ok = s.ok := rfl

@[simp] theorem State.setDone_addrOut (s : State) (b : Bool) : (s.setDone b).addrOut = s.addrOut := rfl

@[simp] theorem State.setDone_cmdOut (s : State) (b : Bool) : (s.setDone b).cmdOut = s.cmdOut := rfl

@[simp] theorem State.setDone_inputs (s : State) (b : Bool) : (s.setDone b).inputs = s.inputs := rfl

@[simp] theorem State.setDone_freeEdges (s : State) (b : Bool) : (s.setDone b).freeEdges = s.freeEdges := rfl

/-! ### `State.writeResult` -/

@[simp] theorem State.writeResult_cfg (s : State) (b : Bool) (a c : Word) : (s.writeResult b a c).cfg = s.cfg := rfl

@[simp] theorem State.writeResult_cnt (s : State) (b : Bool) (a c : Word) : (s.writeResult b a c).cnt = s.cnt := rfl

@[simp] theorem State.writeResult_hdrOk (s : State) (b : Bool) (a c : Word) : (s.writeResult b a c).hdrOk = s.hdrOk := rfl

@[simp] theorem State.writeResult_acc (s : State) (b : Bool) (a c : Word) : (s.writeResult b a c).acc = s.acc := rfl

@[simp] theorem State.writeResult_slot (s : State) (b : Bool) (a c : Word) : (s.writeResult b a c).slot = s.slot := rfl

@[simp] theorem State.writeResult_done (s : State) (b : Bool) (a c : Word) : (s.writeResult b a c).done = s.done := rfl

@[simp] theorem State.writeResult_ok (s : State) (b : Bool) (a c : Word) : (s.writeResult b a c).ok = b := rfl

@[simp] theorem State.writeResult_addrOut (s : State) (b : Bool) (a c : Word) : (s.writeResult b a c).addrOut = a := rfl

@[simp] theorem State.writeResult_cmdOut (s : State) (b : Bool) (a c : Word) : (s.writeResult b a c).cmdOut = c := rfl

@[simp] theorem State.writeResult_inputs (s : State) (b : Bool) (a c : Word) : (s.writeResult b a c).inputs = s.inputs := rfl

@[simp] theorem State.writeResult_freeEdges (s : State) (b : Bool) (a c : Word) : (s.writeResult b a c).freeEdges = s.freeEdges := rfl

/-! ### `State.clearTransient` -/

@[simp] theorem State.clearTransient_cfg (s : State) : (s.clearTransient).cfg = s.cfg := rfl

@[simp] theorem State.clearTransient_cnt (s : State) : (s.clearTransient).cnt = 0#6 := rfl

@[simp] theorem State.clearTransient_hdrOk (s : State) : (s.clearTransient).hdrOk = false := rfl

@[simp] theorem State.clearTransient_acc (s : State) : (s.clearTransient).acc = 0x00#8 := rfl

@[simp] theorem State.clearTransient_slot (s : State) : (s.clearTransient).slot = Slots.zero := rfl

@[simp] theorem State.clearTransient_done (s : State) : (s.clearTransient).done = s.done := rfl

@[simp] theorem State.clearTransient_ok (s : State) : (s.clearTransient).ok = s.ok := rfl

@[simp] theorem State.clearTransient_addrOut (s : State) : (s.clearTransient).addrOut = s.addrOut := rfl

@[simp] theorem State.clearTransient_cmdOut (s : State) : (s.clearTransient).cmdOut = s.cmdOut := rfl

@[simp] theorem State.clearTransient_inputs (s : State) : (s.clearTransient).inputs = s.inputs := rfl

@[simp] theorem State.clearTransient_freeEdges (s : State) : (s.clearTransient).freeEdges = s.freeEdges := rfl

/-! ### `State.applyReset` -/

@[simp] theorem State.applyReset_cfg (s : State) : (s.applyReset).cfg = s.cfg := rfl

@[simp] theorem State.applyReset_cnt (s : State) : (s.applyReset).cnt = 0#6 := rfl

@[simp] theorem State.applyReset_hdrOk (s : State) : (s.applyReset).hdrOk = false := rfl

@[simp] theorem State.applyReset_acc (s : State) : (s.applyReset).acc = 0x00#8 := rfl

@[simp] theorem State.applyReset_slot (s : State) : (s.applyReset).slot = Slots.zero := rfl

@[simp] theorem State.applyReset_done (s : State) : (s.applyReset).done = false := rfl

@[simp] theorem State.applyReset_ok (s : State) : (s.applyReset).ok = false := rfl

@[simp] theorem State.applyReset_addrOut (s : State) : (s.applyReset).addrOut = 0x00000000#32 := rfl

@[simp] theorem State.applyReset_cmdOut (s : State) : (s.applyReset).cmdOut = 0x00000000#32 := rfl

@[simp] theorem State.applyReset_inputs (s : State) : (s.applyReset).inputs = s.inputs := rfl

@[simp] theorem State.applyReset_freeEdges (s : State) : (s.applyReset).freeEdges = s.freeEdges := rfl

/-! ### `State.presentWord` -/

@[simp] theorem State.presentWord_cfg (s : State) (w : CommandWord) : (s.presentWord w).cfg = s.cfg := rfl

@[simp] theorem State.presentWord_cnt (s : State) (w : CommandWord) : (s.presentWord w).cnt = s.cnt := rfl

@[simp] theorem State.presentWord_hdrOk (s : State) (w : CommandWord) : (s.presentWord w).hdrOk = s.hdrOk := rfl

@[simp] theorem State.presentWord_acc (s : State) (w : CommandWord) : (s.presentWord w).acc = s.acc := rfl

@[simp] theorem State.presentWord_slot (s : State) (w : CommandWord) : (s.presentWord w).slot = s.slot := rfl

@[simp] theorem State.presentWord_done (s : State) (w : CommandWord) : (s.presentWord w).done = s.done := rfl

@[simp] theorem State.presentWord_ok (s : State) (w : CommandWord) : (s.presentWord w).ok = s.ok := rfl

@[simp] theorem State.presentWord_addrOut (s : State) (w : CommandWord) : (s.presentWord w).addrOut = s.addrOut := rfl

@[simp] theorem State.presentWord_cmdOut (s : State) (w : CommandWord) : (s.presentWord w).cmdOut = s.cmdOut := rfl

@[simp] theorem State.presentWord_inputs (s : State) (w : CommandWord) : (s.presentWord w).inputs = Inputs.ofWord 0#1 w :: s.inputs := rfl

@[simp] theorem State.presentWord_freeEdges (s : State) (w : CommandWord) : (s.presentWord w).freeEdges = s.freeEdges := rfl

/-! ### `State.concludeCall` -/

@[simp] theorem State.concludeCall_cfg (s : State) : (s.concludeCall).cfg = s.cfg := rfl

@[simp] theorem State.concludeCall_cnt (s : State) : (s.concludeCall).cnt = s.cnt := rfl

@[simp] theorem State.concludeCall_hdrOk (s : State) : (s.concludeCall).hdrOk = s.hdrOk := rfl

@[simp] theorem State.concludeCall_acc (s : State) : (s.concludeCall).acc = s.acc := rfl

@[simp] theorem State.concludeCall_slot (s : State) : (s.concludeCall).slot = s.slot := rfl

@[simp] theorem State.concludeCall_done (s : State) : (s.concludeCall).done = true := rfl

@[simp] theorem State.concludeCall_ok (s : State) : (s.concludeCall).ok = outcomeFlag s := rfl

@[simp] theorem State.concludeCall_addrOut (s : State) : (s.concludeCall).addrOut = resultWord (outcomeFlag s) s.slot.addr := rfl

@[simp] theorem State.concludeCall_cmdOut (s : State) : (s.concludeCall).cmdOut = resultWord (outcomeFlag s) s.slot.cmd := rfl

@[simp] theorem State.concludeCall_inputs (s : State) : (s.concludeCall).inputs = s.inputs := rfl

@[simp] theorem State.concludeCall_freeEdges (s : State) : (s.concludeCall).freeEdges = s.freeEdges := rfl

/-! ### The output ports -/

@[simp] theorem State.outputs_done (s : State) : s.outputs.done = BitVec.ofBool s.done := rfl

@[simp] theorem State.outputs_ok (s : State) : s.outputs.ok = BitVec.ofBool s.ok := rfl

@[simp] theorem State.outputs_addrOut (s : State) : s.outputs.addrOut = s.addrOut := rfl

@[simp] theorem State.outputs_cmdOut (s : State) : s.outputs.cmdOut = s.cmdOut := rfl

/-! ### Sampling the ports -/

theorem State.sample_of_cons (s : State) (e : Inputs) (rest : List Inputs) (h : s.inputs = e :: rest) :
    s.sample = (e, { s with inputs := rest }) := by
  simp [State.sample, h]

theorem State.sample_of_nil (s : State) (h : s.inputs = []) :
    s.sample = (Inputs.ofBits (Config.freeInput s.freeEdges), { s with freeEdges := s.freeEdges + 1 }) := by
  simp [State.sample, h]

/-- Sampling touches the input list and the counter of free inputs only. -/
theorem State.sample_keeps_registers (s : State) :
    ∃ ins n, s.sample.2 = { s with inputs := ins, freeEdges := n } := by
  unfold State.sample
  split
  · exact ⟨_, _, rfl⟩
  · exact ⟨_, _, rfl⟩

end Sys2Proof.Machine
end

