-- ==== Sys2Proof/Laws/Ops.lean ====
section
/-! SUPPORT. What the slots and the views of `CNT` give (spec/10_state.md R15, R18). -/

namespace Sys2Proof.Machine

/-- Read after write of a slot, and the frame of the write. -/
theorem Slots.get_set (b : Slots) (k j : BitVec 2) (v : Byte) :
    (b.set k v).get j = if j = k then v else b.get j := by
  rcases two_bits_cases k with rfl | rfl | rfl | rfl <;> rcases two_bits_cases j with rfl | rfl | rfl | rfl <;>
    simp [Slots.get, Slots.set]

@[simp] theorem Slots.set_addr (b : Slots) (v : Byte) : b.set 0#2 v = { b with addr := v } := rfl

@[simp] theorem Slots.set_addrComp (b : Slots) (v : Byte) : b.set 1#2 v = { b with addrComp := v } := rfl

@[simp] theorem Slots.set_cmd (b : Slots) (v : Byte) : b.set 2#2 v = { b with cmd := v } := rfl

@[simp] theorem Slots.set_cmdComp (b : Slots) (v : Byte) : b.set 3#2 v = { b with cmdComp := v } := rfl

@[simp] theorem Slots.get_addr (b : Slots) : b.get 0#2 = b.addr := rfl

@[simp] theorem Slots.get_addrComp (b : Slots) : b.get 1#2 = b.addrComp := rfl

@[simp] theorem Slots.get_cmd (b : Slots) : b.get 2#2 = b.cmd := rfl

@[simp] theorem Slots.get_cmdComp (b : Slots) : b.get 3#2 = b.cmdComp := rfl

/-- A data-bit record ends its byte at record 8, 16, 24 or 32. -/
theorem bitPos_eq_seven (c : BitVec 6) (h1 : 1 ≤ c.toNat) (h2 : c.toNat ≤ 32) : bitPos c = 7#3 ↔ c.toNat % 8 = 0 := by
  revert c; decide

/-- The slot index of a data-bit record. -/
theorem byteIdx_eq (c : BitVec 6) (h1 : 1 ≤ c.toNat) (h2 : c.toNat ≤ 32) :
    byteIdx c = BitVec.ofNat 2 ((c.toNat - 1) / 8) := by
  revert c; decide

/-- Counting does not wrap below 63. -/
theorem count_succ (c : BitVec 6) (h : c.toNat ≤ 62) : (c + 1#6).toNat = c.toNat + 1 := by
  rw [BitVec.toNat_add]; simp; omega

theorem count_eq_iff (c : BitVec 6) (n : Nat) (h : n < 64) : c = BitVec.ofNat 6 n ↔ c.toNat = n := by
  constructor
  · rintro rfl; simp; omega
  · intro h'; apply BitVec.eq_of_toNat_eq; simp; omega

end Sys2Proof.Machine
end

