-- ==== Sys2Proof/Laws/Exec.lean ====
section
/-! SUPPORT. What each operation's meaning can do, said once (spec/41_accumulator.md, spec/42_checksum.md). -/

namespace Sys2Proof.Machine

@[simp] theorem exec_nop (s : State) : exec .nop s = .next s := rfl

@[simp] theorem exec_start (s : State) : exec .start s = .next (s.clearTransient.setDone false) := rfl

@[simp] theorem exec_push (l0 : Level) (d0 : Ticks) (l1 : Level) (d1 : Ticks) (s : State) :
    exec (.push l0 d0 l1 d1) s = .next (pushRecord { l0 := l0, d0 := d0, l1 := l1, d1 := d1 } s) := rfl

@[simp] theorem exec_finish (s : State) : exec .finish s = .next s.concludeCall.clearTransient := rfl

theorem pushRecord_header (r : PulseRecord) (s : State) (h : s.cnt.toNat = 0) :
    pushRecord r s = { s with done := false, hdrOk := hdrMatch s.cfg r, cnt := 1#6 } := by
  simp [pushRecord, h, pushHeader, headerFlag, State.setDone]

theorem pushRecord_shift (r : PulseRecord) (s : State) (h1 : 1 ≤ s.cnt.toNat) (h2 : s.cnt.toNat ≤ 32)
    (h3 : s.cnt.toNat % 8 ≠ 0) :
    pushRecord r s = { s with done := false, acc := accNext s.cfg s.acc r, cnt := s.cnt + 1#6 } := by
  have h0 : s.cnt.toNat ≠ 0 := by omega
  have h7 : bitPos s.cnt ≠ 7#3 := fun e => h3 ((bitPos_eq_seven _ h1 h2).1 e)
  unfold pushRecord
  rw [if_neg h0, if_pos (show s.cnt.toNat ≤ Protocol.DATA_BITS from h2)]
  rw [pushData, if_neg (show bitPos (s.setDone false).cnt ≠ 7#3 from h7)]
  rfl

theorem pushRecord_capture (r : PulseRecord) (s : State) (h1 : 1 ≤ s.cnt.toNat) (h2 : s.cnt.toNat ≤ 32)
    (h3 : s.cnt.toNat % 8 = 0) :
    pushRecord r s =
      { s with
        done := false, acc := 0x00#8, cnt := s.cnt + 1#6,
        slot := s.slot.set (byteIdx s.cnt) (accNext s.cfg s.acc r) } := by
  have h0 : s.cnt.toNat ≠ 0 := by omega
  have h7 : bitPos s.cnt = 7#3 := (bitPos_eq_seven _ h1 h2).2 h3
  unfold pushRecord
  rw [if_neg h0, if_pos (show s.cnt.toNat ≤ Protocol.DATA_BITS from h2)]
  rw [pushData, if_pos (show bitPos (s.setDone false).cnt = 7#3 from h7)]
  rfl

theorem pushRecord_tail (r : PulseRecord) (s : State) (h : 33 ≤ s.cnt.toNat) :
    pushRecord r s = { s with done := false, cnt := if s.cnt = 33#6 then 34#6 else s.cnt } := by
  have h0 : s.cnt.toNat ≠ 0 := by omega
  have h2 : ¬ s.cnt.toNat ≤ Protocol.DATA_BITS := by simp only [Protocol.DATA_BITS]; omega
  unfold pushRecord
  rw [if_neg h0, if_neg h2]
  unfold pushTail
  by_cases h3 : s.cnt = 33#6
  · simp [h3, State.setDone]
  · simp [h3, State.setDone]

/-- Every PUSH is one of the four cases, by `CNT` alone. -/
theorem pushRecord_cases (r : PulseRecord) (s : State) :
    (s.cnt.toNat = 0 ∧ pushRecord r s = { s with done := false, hdrOk := hdrMatch s.cfg r, cnt := 1#6 })
    ∨ (1 ≤ s.cnt.toNat ∧ s.cnt.toNat ≤ 32 ∧ s.cnt.toNat % 8 ≠ 0
        ∧ pushRecord r s = { s with done := false, acc := accNext s.cfg s.acc r, cnt := s.cnt + 1#6 })
    ∨ (1 ≤ s.cnt.toNat ∧ s.cnt.toNat ≤ 32 ∧ s.cnt.toNat % 8 = 0
        ∧ pushRecord r s =
          { s with
            done := false, acc := 0x00#8, cnt := s.cnt + 1#6,
            slot := s.slot.set (byteIdx s.cnt) (accNext s.cfg s.acc r) })
    ∨ (33 ≤ s.cnt.toNat
        ∧ pushRecord r s = { s with done := false, cnt := if s.cnt = 33#6 then 34#6 else s.cnt }) := by
  by_cases h0 : s.cnt.toNat = 0
  · exact .inl ⟨h0, pushRecord_header r s h0⟩
  · by_cases h2 : s.cnt.toNat ≤ 32
    · by_cases h3 : s.cnt.toNat % 8 = 0
      · exact .inr (.inr (.inl ⟨by omega, h2, h3, pushRecord_capture r s (by omega) h2 h3⟩))
      · exact .inr (.inl ⟨by omega, h2, h3, pushRecord_shift r s (by omega) h2 h3⟩)
    · exact .inr (.inr (.inr ⟨by omega, pushRecord_tail r s (by omega)⟩))

/-- A PUSH touches none of the result registers, the configuration and the ports' coming edges. -/
theorem pushRecord_keeps (r : PulseRecord) (s : State) :
    (pushRecord r s).ok = s.ok ∧ (pushRecord r s).addrOut = s.addrOut ∧ (pushRecord r s).cmdOut = s.cmdOut
    ∧ (pushRecord r s).cfg = s.cfg ∧ (pushRecord r s).inputs = s.inputs ∧ (pushRecord r s).freeEdges = s.freeEdges
    ∧ (pushRecord r s).done = false := by
  rcases pushRecord_cases r s with ⟨_, h⟩ | ⟨_, _, _, h⟩ | ⟨_, _, _, h⟩ | ⟨_, h⟩ <;> rw [h] <;> simp

/-- The checksum as two equations (R72). -/
theorem chkOk_iff (a ac c cc : Byte) : chkOk a ac c cc = true ↔ a = ac ^^^ 0xFF#8 ∧ c = cc ^^^ 0xFF#8 := by
  simp [chkOk, Protocol.CHK_MASK]

/-- Success at FINISH is the three tests of R73 together. -/
theorem outcomeFlag_iff (s : State) :
    outcomeFlag s = true ↔
      s.cnt.toNat = 34 ∧ s.hdrOk = true ∧ chkOk s.slot.addr s.slot.addrComp s.slot.cmd s.slot.cmdComp = true := by
  simp [outcomeFlag, Slots.chkOk, Protocol.FRAME_RECORDS, and_assoc]

/-- An operation always answers a next state (R61). -/
theorem exec_answers_next (i : Instr) (s : State) : ∃ t, exec i s = .next t := by
  cases i <;> exact ⟨_, rfl⟩

end Sys2Proof.Machine
end

