-- ==== Sys2Proof/Laws/PerInstr.lean ====
section
/-! SUPPORT. Statements about every operation as syntax, one lemma per constructor (LAWS.json). -/

namespace Sys2Proof.Laws.TableRow

/-- The word an operation encodes to matches its row of the opcode table under the row's mask (spec/30_encoding.md R44). -/
def Statement (i : Instr) : Prop := encode i &&& opMask = i.matchWord

theorem nop : Statement .nop := by unfold Statement; decide

theorem start : Statement .start := by unfold Statement; decide

theorem push (l0 : Level) (d0 : Ticks) (l1 : Level) (d1 : Ticks) : Statement (.push l0 d0 l1 d1) := by
  unfold Statement
  apply BitVec.eq_of_getLsbD_eq
  intro i hi
  rw [BitVec.getLsbD_and]
  simp only [encode, packWord_bit, opMask, Instr.matchWord]
  by_cases h : i < 34
  · have hm : ∀ j < 34, (0xC00000000#36).getLsbD j = false ∧ (0x800000000#36).getLsbD j = false := by decide
    simp [hm i h]
  · have h' : i = 34 ∨ i = 35 := by omega
    rcases h' with rfl | rfl <;> simp

theorem finish : Statement .finish := by unfold Statement; decide

end Sys2Proof.Laws.TableRow
end

