-- ==== Sys2Proof/Laws/Step.lean ====
section
/-! SUPPORT. What a step and a run can do, said once (spec/41_accumulator.md R61, R62). -/

namespace Sys2Proof.Machine

theorem beginsCall_iff (e : Inputs) :
    e.beginsCall = true ↔ e.rst = 1#1 ∨ decode e.word = .start ∨ decode e.word = .finish := by
  simp [Inputs.beginsCall, or_assoc]

theorem endsCall_iff (e : Inputs) : e.endsCall = true ↔ e.rst = 0#1 ∧ decode e.word = .finish := by
  simp [Inputs.endsCall]

theorem idles_iff (e : Inputs) : e.idles = true ↔ e.rst = 0#1 ∧ decode e.word = .nop := by
  simp [Inputs.idles]

theorem step_of_cons (s : State) (e : Inputs) (rest : List Inputs) (h : s.inputs = e :: rest) :
    step s = atEdge e { s with inputs := rest } := by
  simp [step, State.sample_of_cons s e rest h]

theorem atEdge_reset (e : Inputs) (s : State) (h : e.rst = 1#1) : atEdge e s = .next s.applyReset := by
  simp [atEdge, h]

theorem atEdge_exec (e : Inputs) (s : State) (h : e.rst = 0#1) : atEdge e s = exec (decode e.word) s := by
  simp [atEdge, h]

/-- What an edge can do: the reset, or one of the four operations. -/
theorem atEdge_cases (e : Inputs) (s t : State) (h : atEdge e s = .next t) :
    (e.rst = 1#1 ∧ t = s.applyReset)
    ∨ (e.rst = 0#1 ∧ decode e.word = .nop ∧ t = s)
    ∨ (e.rst = 0#1 ∧ decode e.word = .start ∧ t = s.clearTransient.setDone false)
    ∨ (e.rst = 0#1 ∧ (∃ r : PulseRecord, decode e.word = .push r.l0 r.d0 r.l1 r.d1 ∧ t = pushRecord r s))
    ∨ (e.rst = 0#1 ∧ decode e.word = .finish ∧ t = s.concludeCall.clearTransient) := by
  by_cases hr : e.rst = 1#1
  · rw [atEdge_reset e s hr] at h
    exact .inl ⟨hr, by injection h with h; exact h.symm⟩
  · have hz := bit_eq_zero_of_ne_one _ hr
    rw [atEdge_exec e s hz] at h
    cases hd : decode e.word <;> rw [hd] at h <;> injection h with h
    · exact .inr (.inl ⟨hz, rfl, h.symm⟩)
    · exact .inr (.inr (.inl ⟨hz, rfl, h.symm⟩))
    · exact .inr (.inr (.inr (.inl ⟨hz, ⟨_, _, _, _⟩, rfl, h.symm⟩)))
    · exact .inr (.inr (.inr (.inr ⟨hz, rfl, h.symm⟩)))

/-- Every step is an edge with some inputs, from the state with only its list and counter of inputs changed. -/
theorem step_is_edge (s : State) : ∃ e ins n, step s = atEdge e { s with inputs := ins, freeEdges := n } := by
  obtain ⟨ins, n, h⟩ := s.sample_keeps_registers
  exact ⟨s.sample.1, ins, n, by rw [step, h]⟩

@[simp] theorem run_zero (s : State) : run 0 s = .next s := rfl

theorem run_succ_of_next (k : Nat) (s t : State) (h : step s = .next t) : run (k + 1) s = run k t := by
  have h' : Sys2Proof.core.step s = .next t := h
  simp only [run, Host.Core.run, h']
  rfl

theorem run_add (j k : Nat) (s t : State) (h : run j s = .next t) : run (j + k) s = run k t := by
  induction j generalizing s with
  | zero => simp only [run_zero] at h; injection h with h; rw [h, Nat.zero_add]
  | succ j ih =>
    obtain ⟨e, ins, n, he⟩ := step_is_edge s
    have : ∃ u, step s = .next u := by
      rw [he]
      by_cases hr : e.rst = 1#1
      · exact ⟨_, atEdge_reset _ _ hr⟩
      · rw [atEdge_exec _ _ (bit_eq_zero_of_ne_one _ hr)]; exact exec_answers_next _ _
    obtain ⟨u, hu⟩ := this
    rw [run_succ_of_next _ _ _ hu] at h
    rw [Nat.succ_add, run_succ_of_next _ _ _ hu, ih u h]

/-- The state after a list of records is pushed. -/
def pushAll (rs : List PulseRecord) (s : State) : State := rs.foldl (fun u r => pushRecord r u) s

@[simp] theorem pushAll_nil (s : State) : pushAll [] s = s := rfl

@[simp] theorem pushAll_cons (r : PulseRecord) (rs : List PulseRecord) (s : State) :
    pushAll (r :: rs) s = pushAll rs (pushRecord r s) := rfl

/-- A PUSH does not look at the coming inputs. -/
theorem pushRecord_inputs (r : PulseRecord) (s : State) (ins : List Inputs) :
    pushRecord r { s with inputs := ins } = { pushRecord r s with inputs := ins } := by
  rcases pushRecord_cases r s with ⟨h0, h⟩ | ⟨h1, h2, h3, h⟩ | ⟨h1, h2, h3, h⟩ | ⟨h1, h⟩
  · rw [h, pushRecord_header r { s with inputs := ins } h0]
  · rw [h, pushRecord_shift r { s with inputs := ins } h1 h2 h3]
  · rw [h, pushRecord_capture r { s with inputs := ins } h1 h2 h3]
  · rw [h, pushRecord_tail r { s with inputs := ins } h1]

theorem pushAll_inputs (rs : List PulseRecord) (s : State) (ins : List Inputs) :
    pushAll rs { s with inputs := ins } = { pushAll rs s with inputs := ins } := by
  induction rs generalizing s with
  | nil => rfl
  | cons r rs ih => rw [pushAll_cons, pushRecord_inputs, ih, pushAll_cons]

/-- A run of PUSH and NOP edges is the pushing of its records. -/
theorem run_body (body rest : List Inputs) (seq : List PulseRecord) (s : State) (hb : callRecords body = some seq)
    (hs : s.inputs = body ++ rest) : run body.length s = .next { pushAll seq s with inputs := rest } := by
  induction body generalizing s seq with
  | nil =>
    simp only [callRecords, Option.some.injEq] at hb
    subst hb
    simp only [List.nil_append] at hs
    simp [← hs]
  | cons e es ih =>
    have hstep := step_of_cons s e (es ++ rest) (by simpa using hs)
    unfold callRecords at hb
    split at hb
    · simp at hb
    · rename_i hr
      rw [atEdge_exec _ _ (bit_eq_zero_of_ne_one _ hr)] at hstep
      split at hb
      · rename_i hd
        rw [hd, exec_nop] at hstep
        rw [List.length_cons, run_succ_of_next _ _ _ hstep, ih seq _ hb rfl, pushAll_inputs]
      · rename_i l0 d0 l1 d1 hd
        cases hes : callRecords es with
        | none => simp [hes] at hb
        | some rs =>
          simp only [hes, Option.map_some, Option.some.injEq] at hb
          subst hb
          rw [hd, exec_push] at hstep
          rw [List.length_cons, run_succ_of_next _ _ _ hstep,
            ih rs _ hes (by rw [(pushRecord_keeps _ _).2.2.2.2.1]), pushRecord_inputs, pushAll_inputs, pushAll_cons]
      · simp at hb
      · simp at hb

/-- A list of records driven one PUSH an edge pushes exactly these. -/
theorem callRecords_map_drivePush (rs : List PulseRecord) : callRecords (rs.map Inputs.drivePush) = some rs := by
  induction rs with
  | nil => rfl
  | cons r rs ih =>
    have hd : decode (Inputs.drivePush r).word = .push r.l0 r.d0 r.l1 r.d1 := by
      simp [Inputs.drivePush, Inputs.drive, encode, decode, opField_packWord, l0Field_packWord, d0Field_packWord,
        l1Field_packWord, d1Field_packWord]
    have hz : (Inputs.drivePush r).rst = 0#1 := rfl
    simp only [List.map_cons, callRecords, hz, hd, ih]
    rfl

/-- Pushing data-bit records is the reference loop of R75 on `ACC` and the slots. -/
theorem pushAll_data (rs : List PulseRecord) (s : State) (h1 : 1 ≤ s.cnt.toNat) (h2 : s.cnt.toNat + rs.length ≤ 33) :
    pushAll rs s =
      { s with
        done := if rs.isEmpty then s.done else false,
        acc := (scanFrom s.cfg s.cnt.toNat rs { acc := s.acc, b := s.slot }).acc,
        slot := (scanFrom s.cfg s.cnt.toNat rs { acc := s.acc, b := s.slot }).b,
        cnt := BitVec.ofNat 6 (s.cnt.toNat + rs.length) } := by
  induction rs generalizing s with
  | nil => simp [scanFrom]
  | cons r rs ih =>
    simp only [List.length_cons] at h2
    have hc := count_succ s.cnt (by omega)
    have hl : s.cnt.toNat + 1 + rs.length = s.cnt.toNat + (rs.length + 1) := by omega
    rw [pushAll_cons]
    by_cases h8 : s.cnt.toNat % 8 = 0
    · rw [pushRecord_capture r s h1 (by omega) h8, ih _ (by simp only [hc]; omega) (by simp only [hc]; omega)]
      have h7 : (s.cnt.toNat - 1) % 8 = 7 := by omega
      simp only [hc, hl, scanFrom, scanRecord, h7, if_true, byteIdx_eq s.cnt h1 (by omega), List.length_cons,
        List.isEmpty_cons]
      simp
    · rw [pushRecord_shift r s h1 (by omega) h8, ih _ (by simp only [hc]; omega) (by simp only [hc]; omega)]
      have h7 : ¬ (s.cnt.toNat - 1) % 8 = 7 := by omega
      simp only [hc, hl, scanFrom, scanRecord, h7, if_false, List.length_cons, List.isEmpty_cons]
      simp

/-- Pushing records from `CNT` = 33 on only counts them. -/
theorem pushAll_tail (rs : List PulseRecord) (s : State) (h1 : 33 ≤ s.cnt.toNat) (h2 : s.cnt.toNat ≤ 34) :
    pushAll rs s =
      { s with
        done := if rs.isEmpty then s.done else false, cnt := if rs.isEmpty then s.cnt else 34#6 } := by
  induction rs generalizing s with
  | nil => simp
  | cons r rs ih =>
    rw [pushAll_cons, pushRecord_tail r s h1]
    have hc : (if s.cnt = 33#6 then 34#6 else s.cnt) = 34#6 := by
      split
      · rfl
      · rename_i h
        have := mt (count_eq_iff s.cnt 33 (by omega)).2 h
        exact (count_eq_iff s.cnt 34 (by omega)).2 (by omega)
    rw [ih _ (by simp [hc]) (by simp [hc])]
    simp [hc]

end Sys2Proof.Machine
end

