-- ==== Sys2Proof/Tests/Slice0.lean ====
section
/-! SUPPORT. The model's own tests, expected values from spec/95_test_vectors.md and the rules' own examples, and a witness for
the hypotheses of every statement that has some. -/

namespace Sys2Proof.Tests

open Sys2Proof.Machine

/-! ### Words written out bit by bit from R43 and R44: OP, L1, D1, L0, D0 -/

theorem test_decode_nop_ignores_record : decode 0b00_1_0000011010011010_0_0000001000110000#36 = .nop := by decide

theorem test_decode_start : decode 0b01_0_0000000000000000_0_0000000000000000#36 = .start := by decide

theorem test_decode_push_header :
    decode 0b10_1_0001000110010100_0_0010001100101000#36 = .push 0#1 9000#16 1#1 4500#16 := by decide

theorem test_decode_finish : decode 0b11_0_0000000000000000_0_0000000000000000#36 = .finish := by decide

theorem test_encode_push_header : encode (.push 0#1 9000#16 1#1 4500#16) = 0xA23282328#36 := by decide

theorem test_encode_finish : encode .finish = 0xC00000000#36 := by decide

theorem test_number_of_37_bits_rejected : decodeTableWord 40 0x1000000000 = none := by decide

theorem test_table_word : decodeTableWord 40 0x800000000 = some (.push 0#1 0#16 0#1 0#16) := by decide

/-! ### Ill-formed terms, one for each check -/

theorem test_level_2_refused : (AsmLine.push 2 0 0 0).wellFormed = false := by decide

theorem test_second_level_2_refused : (AsmLine.push 0 0 2 0).wellFormed = false := by decide

theorem test_ticks_65536_refused : (AsmLine.push 0 65536 0 0).wellFormed = false := by decide

theorem test_second_ticks_65536_refused : (AsmLine.push 0 0 0 65536).wellFormed = false := by decide

theorem test_rec_ticks_refused : (AsmLine.recLine 560 65536).wellFormed = false := by decide

theorem test_byte_256_refused : (AsmLine.byteLine 256 560 560 1690).wellFormed = false := by decide

theorem test_tick10_0_refused : configurationLegal 0 0 = false := by decide

theorem test_tick10_65536_refused : configurationLegal 65536 0 = false := by decide

theorem test_active_level_2_refused : configurationLegal 10 2 = false := by decide

theorem test_construct_refuses_tick10_0 :
    State.construct 0 0 0 [] = .refused .illegalConfiguration := by rfl

/-! ### The assembler (R50, R51 and 95_test_vectors.md section 4) -/

theorem test_text_push :
    (assembleText 0#1
      ['P', 'U', 'S', 'H', ' ', '0', ',', ' ', '0', 'x', '2', '3', '2', '8', ',', ' ', '1', ',', '4', '5', '0', '0', ' ', ';',
       'x']).toOption = some [.push 0#1 9000#16 1#1 4500#16] := by decide

theorem test_byte_0x59_words :
    (expandLine 0#1 (.byteLine 0x59 560 560 1690)).map encode =
      [0xA0D340230#36, 0xA04600230#36, 0xA04600230#36, 0xA0D340230#36, 0xA0D340230#36, 0xA04600230#36, 0xA0D340230#36,
       0xA04600230#36] := by decide

/-! ### The classifier, the accumulator and the checksum (V-C, V-H, V-K, V-B, V-X) -/

/-- `TICK10` = 8, `ACTIVE_LEVEL` = 1. -/
def cfg8 : Config := { tick10 := 8, activeLevel := 1#1, legal := by decide }

theorem test_VC8_truncates : durUs cfg8 7201#16 = 9001 := by decide

theorem test_VC2_bit_15_ignored : durUs testVectorConfig 0xA328#16 = 9000 := by decide

theorem test_VH4_upper_end_included : hdrMatch testVectorConfig ⟨0#1, 11000#16, 1#1, 4500#16⟩ = true := by decide

theorem test_VH5_one_above : hdrMatch testVectorConfig ⟨0#1, 11001#16, 1#1, 4500#16⟩ = false := by decide

theorem test_VH18_active_high : hdrMatch cfg8 ⟨1#1, 7200#16, 0#1, 3600#16⟩ = true := by decide

theorem test_VK9_one_space_upper_end : classify testVectorConfig ⟨0#1, 560#16, 1#1, 2090#16⟩ = .one := by decide

theorem test_VK13_zero_space_upper_end : classify testVectorConfig ⟨0#1, 560#16, 1#1, 960#16⟩ = .zero := by decide

theorem test_VK15_between_the_windows : classify testVectorConfig ⟨0#1, 560#16, 1#1, 1120#16⟩ = .unrec := by decide

theorem test_VK17_both_active : classify testVectorConfig ⟨0#1, 560#16, 0#1, 1690#16⟩ = .unrec := by decide

theorem test_VA8_one : accNext testVectorConfig 0x7F#8 ⟨0#1, 560#16, 1#1, 1690#16⟩ = 0xBF#8 := by decide

theorem test_VX2_checksum : chkOk 0x59#8 0xA6#8 0x16#8 0xE9#8 = true := by decide

theorem test_VX3_checksum : chkOk 0x59#8 0xA6#8 0x16#8 0xE8#8 = false := by decide

/-- Data records of one byte: `u` for each bit position that is sent unrecognized (a 1120 µs space). -/
def byteRecords (v u : Byte) : List PulseRecord :=
  (List.range 8).map fun j =>
    { l0 := 0#1, d0 := 560#16, l1 := 1#1,
      d1 := if u.getLsbD j then 1120#16 else if v.getLsbD j then 1690#16 else 560#16 }

theorem test_VB7_seven_recognized : capturedByte testVectorConfig (byteRecords 0x01#8 0x80#8) = 0x02#8 := by decide

theorem test_VB9_first_bit_lost : capturedByte testVectorConfig (byteRecords 0xFF#8 0x04#8) = 0xFE#8 := by decide

/-- The frame of 95_test_vectors.md P3: record 8 unrecognized, so that the address byte is 0x02. -/
def frameP3 : List PulseRecord :=
  ⟨0#1, 9000#16, 1#1, 4500#16⟩ :: byteRecords 0x01#8 0x80#8 ++ byteRecords 0xFD#8 0#8 ++ byteRecords 0x10#8 0#8
    ++ byteRecords 0xEF#8 0#8 ++ [⟨0#1, 560#16, 1#1, 0#16⟩]

theorem test_P3_lenient_rule : referenceDecode testVectorConfig frameP3 = .success 0x02#32 0x10#32 := by decide

/-! ### Single operations (V-O): one step each -/

/-- A state under the test vectors' configuration, with the edges `ins` to come. -/
def st (cnt : BitVec 6) (hdrOk : Bool) (acc : Byte) (slot : Slots) (ins : List Inputs) : State :=
  { State.reset with cnt := cnt, hdrOk := hdrOk, acc := acc, slot := slot, inputs := ins }

/-- The same state showing the result of an earlier call. -/
def shown (s : State) (done ok : Bool) (addr cmd : Word) : State :=
  { s with done := done, ok := ok, addrOut := addr, cmdOut := cmd }

/-- One edge with `rst` = 0 and a command word. -/
def w (n : Nat) : Inputs := Inputs.ofWord 0#1 (BitVec.ofNat 36 n)

/-- One edge with `rst` = 1. -/
def rstEdge : Inputs := Inputs.ofWord 1#1 0xC00000000#36

/-- The state that the step leads to, if it is a next state. -/
def after (s : State) : Option State :=
  match step s with
  | .next t => some t
  | .fault _ => none
  | .refused _ => none

theorem test_VO1_nop :
    after (shown (st 5#6 false 0x80#8 Slots.zero [w 0x000000000]) true true 0x59#32 0x16#32)
      = some (shown (st 5#6 false 0x80#8 Slots.zero []) true true 0x59#32 0x16#32) := by decide

theorem test_VO18_nop_with_record :
    after (st 3#6 false 0x40#8 Slots.zero [w 0x20D340230]) = some (st 3#6 false 0x40#8 Slots.zero []) := by decide

theorem test_VO2_start :
    after (shown (st 12#6 true 0x40#8 ⟨0x59#8, 0#8, 0#8, 0#8⟩ [w 0x400000000]) false true 0x59#32 0x16#32)
      = some (shown (st 0#6 false 0#8 Slots.zero []) false true 0x59#32 0x16#32) := by decide

theorem test_VO16_push_header_clears_done :
    after (shown (st 0#6 false 0#8 Slots.zero [w 0xA23282328]) true true 0x59#32 0x16#32)
      = some (shown (st 1#6 true 0#8 Slots.zero []) false true 0x59#32 0x16#32) := by decide

theorem test_VO8_push_captures_slot_3 :
    after (st 32#6 true 0x01#8 ⟨0x59#8, 0xA6#8, 0x16#8, 0#8⟩ [w 0xA0D340230])
      = some (st 33#6 true 0#8 ⟨0x59#8, 0xA6#8, 0x16#8, 0x80#8⟩ []) := by decide

theorem test_VO11_finish_succeeds :
    after (st 34#6 true 0#8 ⟨0x59#8, 0xA6#8, 0x16#8, 0xE9#8⟩ [w 0xC00000000])
      = some (shown (st 0#6 false 0#8 Slots.zero []) true true 0x59#32 0x16#32) := by decide

theorem test_VO14_finish_fails_on_checksum :
    after (shown (st 34#6 true 0#8 ⟨0x59#8, 0xA6#8, 0x16#8, 0xE8#8⟩ [w 0xC00000000]) false true 0x04#32 0x08#32)
      = some (shown (st 0#6 false 0#8 Slots.zero []) true false 0#32 0#32) := by decide

theorem test_VO17_reset_wins_over_finish :
    after (shown (st 20#6 true 0x33#8 ⟨1#8, 2#8, 0#8, 0#8⟩ [rstEdge]) false true 0x59#32 0x16#32)
      = some (st 0#6 false 0#8 Slots.zero []) := by decide

/-! ### Witnesses: each statement's hypotheses are met together, each clause's at the ends of its range -/

theorem witness_DecodeOfEncode : (Instr.push 1#1 0xFFFF#16 0#1 0x8000#16).wellFormed = true := by decide

theorem witness_PushRecordFromWord : 0xA23282328#36 &&& 0xC00000000#36 = 0x800000000#36 := by decide

/-- Two PUSH words that differ in bits 15 and 32, and two FINISH words that differ in every other bit. -/
theorem witness_IgnoredBitsNeverChangeTheResult :
    (opField 0xA23282328#36 = opField 0xB2328A328#36 ∧ 0xA23282328#36 ≠ 0xB2328A328#36
      ∧ (opField 0xA23282328#36 = 0b10#2 → 0xA23282328#36 &&& 0xEFFFF7FFF#36 = 0xB2328A328#36 &&& 0xEFFFF7FFF#36))
    ∧ opField 0xC00000000#36 = opField 0xFFFFFFFFF#36
      ∧ (opField 0xC00000000#36 = 0b10#2 → 0xC00000000#36 &&& 0xEFFFF7FFF#36 = 0xFFFFFFFFF#36 &&& 0xEFFFF7FFF#36) := by
  decide

theorem witness_StepPerformsExactlyOneOperation :
    ((st 0#6 false 0#8 Slots.zero [rstEdge]).inputs = rstEdge :: [] ∧ rstEdge.rst = 1#1)
    ∧ ((w 0x000000000).rst = 0#1 ∧ (w 0x000000000).op = 0b00#2) ∧ ((w 0x400000000).rst = 0#1 ∧ (w 0x400000000).op = 0b01#2)
    ∧ ((w 0xA23282328).rst = 0#1 ∧ (w 0xA23282328).op = 0b10#2)
    ∧ (w 0xC00000000).rst = 0#1 ∧ (w 0xC00000000).op = 0b11#2 := by decide

theorem witness_StepRunsTheDecodedInstruction :
    (st 0#6 false 0#8 Slots.zero [w 0x400000000]).inputs = w 0x400000000 :: [] ∧ (w 0x400000000).rst = 0#1
    ∧ decode (w 0x400000000).word = .start := by decide

theorem witness_UnlistedEdgeTakesAFreeInput : State.reset.inputs = [] := by decide

theorem witness_PlacedWordRunsNext :
    decodeTableWord 40 0xC00000000 = some .finish ∧ decodeTableWord 40 0xFFFFFFFFF = some .finish := by decide

theorem witness_IllegalConfigurationIsRefused :
    ((1 ≤ 1 ∧ 1 ≤ 65535) ∧ (0 = 0 ∨ 0 = 1)) ∧ ((1 ≤ 65535 ∧ 65535 ≤ 65535) ∧ (1 = 0 ∨ 1 = 1))
    ∧ step (st 5#6 false 0#8 Slots.zero [w 0]) = .next (st 5#6 false 0#8 Slots.zero []) := by
  exact ⟨by decide, by decide, rfl⟩

theorem witness_ResetEdgeSetsEveryRegister :
    ((st 34#6 true 0#8 Slots.zero [rstEdge]).inputs = rstEdge :: [] ∧ rstEdge.rst = 1#1)
    ∧ (∀ x ∈ [rstEdge, rstEdge], x.rst = 1#1)
    ∧ (st 34#6 true 0#8 Slots.zero [rstEdge, rstEdge, rstEdge, w 0]).inputs = rstEdge :: ([rstEdge, rstEdge] ++ [w 0]) := by
  decide

theorem witness_BootReachesTheResetRegisters : 1 ≤ 65535 ∧ 65535 ≤ 65535 ∧ 1 ≤ 1 ∧ rstEdge.rst = 1#1 := by decide

theorem witness_TransientRegistersDefinedByFirstReset :
    (st 63#6 true 0xFF#8 Slots.zero [w 0x400000000]).inputs = w 0x400000000 :: [] ∧ (w 0x400000000).beginsCall = true
    ∧ (w 0xC00000000).beginsCall = true ∧ rstEdge.beginsCall = true ∧ rstEdge.rst = 1#1 := by decide

theorem witness_NopWritesNothing : opField 0x20D340230#36 = 0b00#2 := by decide

theorem witness_NopsHoldAllState :
    (∀ e ∈ [w 0, w 0x20D340230], e.idles = true)
    ∧ (st 5#6 false 0x80#8 Slots.zero [w 0, w 0x20D340230, rstEdge]).inputs = [w 0, w 0x20D340230] ++ [rstEdge] := by
  decide

theorem witness_StartAbandonsTheCall :
    exec .start (st 12#6 true 0x40#8 Slots.zero []) = .next (st 0#6 false 0#8 Slots.zero [])
    ∧ exec .finish (st 33#6 true 0#8 Slots.zero []) = .next (shown (st 0#6 false 0#8 Slots.zero []) true false 0#32 0#32)
    ∧ st 0#6 false 0#8 Slots.zero [] = (st 33#6 true 0#8 Slots.zero []).applyReset := by
  exact ⟨rfl, rfl, by decide⟩

theorem witness_PushChosenByCount :
    (st 0#6 false 0#8 Slots.zero []).cnt.toNat = 0 ∧ 1 ≤ (st 1#6 true 0#8 Slots.zero []).cnt.toNat
    ∧ (st 32#6 true 0#8 Slots.zero []).cnt.toNat ≤ 32 ∧ (st 33#6 true 0#8 Slots.zero []).cnt.toNat = 33
    ∧ (st 34#6 true 0#8 Slots.zero []).cnt.toNat = 34 := by decide

theorem witness_PushHeaderWritesHdrOk : (st 0#6 false 0#8 Slots.zero []).cnt = 0#6 := by decide

theorem witness_PushDataShiftsAndCaptures :
    (1 ≤ (st 1#6 true 0#8 Slots.zero []).cnt.toNat ∧ (st 1#6 true 0#8 Slots.zero []).cnt.toNat ≤ 32
      ∧ (st 1#6 true 0#8 Slots.zero []).cnt.toNat ∉ [8, 16, 24, 32])
    ∧ (1 ≤ (st 31#6 true 0#8 Slots.zero []).cnt.toNat ∧ (st 31#6 true 0#8 Slots.zero []).cnt.toNat ≤ 32
      ∧ (st 31#6 true 0#8 Slots.zero []).cnt.toNat ∉ [8, 16, 24, 32])
    ∧ (st 8#6 true 0#8 Slots.zero []).cnt.toNat = 8 ∧ (st 16#6 true 0#8 Slots.zero []).cnt.toNat = 16
    ∧ (st 24#6 true 0#8 Slots.zero []).cnt.toNat = 24 ∧ (st 32#6 true 0#8 Slots.zero []).cnt.toNat = 32 := by decide

theorem witness_PushTailOnlyCounts :
    (st 33#6 true 0#8 Slots.zero []).cnt = 33#6 ∧ (st 34#6 true 0#8 Slots.zero []).cnt = 34#6 := by decide

theorem witness_PushAboveThirtyFourOnlyClearsDone :
    35 ≤ (st 35#6 true 0#8 Slots.zero []).cnt.toNat ∧ 35 ≤ (st 63#6 true 0#8 Slots.zero []).cnt.toNat := by decide

/-- The clauses of the PUSH frame: a state with a header still to come, one at record 33, one where `SLOT[0]` holds. -/
theorem witness_PushCompletesWithItsFrame :
    (st 1#6 true 0#8 Slots.zero []).cnt.toNat ≠ 0 ∧ (st 0#6 true 0#8 Slots.zero []).cnt.toNat = 0
    ∧ 33 ≤ (st 33#6 true 0#8 Slots.zero []).cnt.toNat
    ∧ (st 16#6 true 0#8 Slots.zero []).cnt.toNat ≠ 8 * (0#2).toNat + 8 := by decide

theorem witness_AccumulatorFollowsTheClass :
    classify testVectorConfig ⟨0#1, 960#16, 1#1, 1290#16⟩ = .one ∧ classify testVectorConfig ⟨0#1, 160#16, 1#1, 160#16⟩ = .zero
    ∧ classify testVectorConfig ⟨0#1, 159#16, 1#1, 160#16⟩ = .unrec := by decide

theorem witness_UnrecognizedRecordAddsNoBit :
    (1 ≤ (st 1#6 true 0#8 Slots.zero []).cnt.toNat ∧ (st 1#6 true 0#8 Slots.zero []).cnt.toNat % 8 ≠ 0)
    ∧ ((st 32#6 true 0#8 Slots.zero []).cnt.toNat ≤ 32 ∧ (st 32#6 true 0#8 Slots.zero []).cnt.toNat % 8 = 0)
    ∧ classify (st 32#6 true 0#8 Slots.zero []).cfg ⟨0#1, 560#16, 1#1, 1120#16⟩ = .unrec := by decide

theorem witness_DurationConversion : 0x2328#16 &&& 0x7FFF#16 = 0xA328#16 &&& 0x7FFF#16 := by decide

theorem witness_WindowEndsAreIncluded : 2000 ≤ 9000 ∧ 1 ≤ 9000 - 2000 ∧ 400 ≤ 400 := by decide

/-- One record of each kind at ends of its windows, with the level pattern. -/
theorem witness_DefaultWindowsAreTheseIntervals :
    (⟨0#1, 7000#16, 1#1, 6500#16⟩ : PulseRecord).l0 = testVectorConfig.activeLevel
    ∧ (⟨0#1, 7000#16, 1#1, 6500#16⟩ : PulseRecord).l1 ≠ testVectorConfig.activeLevel
    ∧ hdrMatch testVectorConfig ⟨0#1, 7000#16, 1#1, 6500#16⟩ = true
    ∧ classify testVectorConfig ⟨0#1, 160#16, 1#1, 1290#16⟩ = .one
    ∧ classify testVectorConfig ⟨0#1, 960#16, 1#1, 960#16⟩ = .zero := by decide

/-- `shape` true and `shape` false. -/
theorem witness_ClassifyByWindows :
    (True ↔ (⟨0#1, 560#16, 1#1, 1690#16⟩ : PulseRecord).l0 = testVectorConfig.activeLevel
      ∧ (⟨0#1, 560#16, 1#1, 1690#16⟩ : PulseRecord).l1 ≠ testVectorConfig.activeLevel
      ∧ inWin (durUs testVectorConfig 560#16) Protocol.BIT_MARK_US Protocol.BIT_TOL = true)
    ∧ (False ↔ (⟨1#1, 560#16, 0#1, 1690#16⟩ : PulseRecord).l0 = testVectorConfig.activeLevel
      ∧ (⟨1#1, 560#16, 0#1, 1690#16⟩ : PulseRecord).l1 ≠ testVectorConfig.activeLevel
      ∧ inWin (durUs testVectorConfig 560#16) Protocol.BIT_MARK_US Protocol.BIT_TOL = true) := by decide

theorem witness_NoRecordIsBothOneAndZero : durUs testVectorConfig 1120#16 = 1120 := by decide

theorem witness_PositionViewsOfCount :
    1 ≤ (st 1#6 true 0#8 Slots.zero []).cnt.toNat ∧ (st 32#6 true 0#8 Slots.zero []).cnt.toNat ≤ 32 := by decide

/-- A list of records' classes, read one by one. -/
theorem class_at (cfg : Config) (rs : List PulseRecord) (n : Nat) (f : Nat → BitClass)
    (h : rs.map (classify cfg) = (List.range n).map f) (j : Nat) (r : PulseRecord) (hj : rs[j]? = some r) :
    classify cfg r = f j := by
  have h1 : (rs.map (classify cfg))[j]? = some (classify cfg r) := by rw [List.getElem?_map, hj]; rfl
  rw [h, List.getElem?_map] at h1
  by_cases hn : j < n
  · rw [List.getElem?_range hn] at h1; exact (Option.some.inj h1).symm
  · rw [List.getElem?_eq_none (by simpa using hn)] at h1; cases h1

/-- The byte 0xE9 sent as the last byte of a frame. -/
theorem witness_RecognizedByteIsLsbFirst :
    (st 25#6 true 0#8 Slots.zero ((byteRecords 0xE9#8 0#8).map Inputs.drivePush ++ [w 0])).inputs
      = (byteRecords 0xE9#8 0#8).map Inputs.drivePush ++ [w 0]
    ∧ (st 25#6 true 0#8 Slots.zero []).cnt.toNat = 8 * (3#2).toNat + 1 ∧ (st 25#6 true 0#8 Slots.zero []).acc = 0x00#8
    ∧ (byteRecords 0xE9#8 0#8).length = 8
    ∧ ∀ j r, (byteRecords 0xE9#8 0#8)[j]? = some r → classify testVectorConfig r = classOfBit ((0xE9#8).getLsbD j) :=
  ⟨by decide, by decide, by decide, by decide, class_at _ _ 8 (fun j => classOfBit ((0xE9#8).getLsbD j)) (by decide)⟩

/-- Eight records with one unrecognized, as the first byte of a frame. -/
theorem witness_CapturedByteOfAnyRecords :
    (st 1#6 true 0#8 Slots.zero ((byteRecords 0x01#8 0x80#8).map Inputs.drivePush ++ [])).inputs
      = (byteRecords 0x01#8 0x80#8).map Inputs.drivePush ++ []
    ∧ (st 1#6 true 0#8 Slots.zero []).cnt.toNat = 8 * (0#2).toNat + 1 ∧ (st 1#6 true 0#8 Slots.zero []).acc = 0x00#8
    ∧ (byteRecords 0x01#8 0x80#8).length = 8
    ∧ (recognizedBits testVectorConfig (byteRecords 0x01#8 0x80#8))[0]? = some true
    ∧ 0 < 8 - (recognizedBits testVectorConfig (byteRecords 0x01#8 0x80#8)).length := by decide

/-- The 32 data records of address 0x59 and command 0x16. -/
def dataRecords59 : List PulseRecord :=
  byteRecords 0x59#8 0#8 ++ byteRecords 0xA6#8 0#8 ++ byteRecords 0x16#8 0#8 ++ byteRecords 0xE9#8 0#8

/-- The header of the test vectors. -/
def header : PulseRecord := ⟨0#1, 9000#16, 1#1, 4500#16⟩

theorem witness_FrameWordHoldsTheDataBits :
    (st 0#6 false 0#8 Slots.zero ((header :: dataRecords59).map Inputs.drivePush ++ [])).inputs
      = (header :: dataRecords59).map Inputs.drivePush ++ []
    ∧ (st 0#6 false 0#8 Slots.zero []).cnt = 0#6 ∧ (st 0#6 false 0#8 Slots.zero []).acc = 0x00#8
    ∧ dataRecords59.length = 32
    ∧ ∀ j r, dataRecords59[j]? = some r → classify testVectorConfig r = classOfBit ((0xE916A659#32).getLsbD j) :=
  ⟨rfl, by decide, by decide, by decide, class_at _ _ 32 (fun j => classOfBit ((0xE916A659#32).getLsbD j)) (by decide)⟩

theorem witness_ByteLineSendsItsByte :
    (st 1#6 true 0#8 Slots.zero []).cnt.toNat = 8 * (0#2).toNat + 1 ∧ (st 1#6 true 0#8 Slots.zero []).acc = 0x00#8
    ∧ (AsmLine.byteLine 255 160 960 1290).wellFormed = true
    ∧ inWin (durUs testVectorConfig (BitVec.ofNat 16 160)) Protocol.BIT_MARK_US Protocol.BIT_TOL = true
    ∧ inWin (durUs testVectorConfig (BitVec.ofNat 16 960)) Protocol.ZERO_SPACE_US Protocol.BIT_TOL = true
    ∧ inWin (durUs testVectorConfig (BitVec.ofNat 16 1290)) Protocol.ONE_SPACE_US Protocol.BIT_TOL = true
    ∧ (st 1#6 true 0#8 Slots.zero ((expandLine 0#1 (.byteLine 255 160 960 1290)).map Inputs.drive ++ [])).inputs
        = (expandLine 0#1 (.byteLine 255 160 960 1290)).map Inputs.drive ++ [] := by decide

/-- A successful and a failing outcome of R73. -/
theorem witness_FinishWritesTheOutcome :
    (true = (((st 34#6 true 0#8 ⟨0x59#8, 0xA6#8, 0x16#8, 0xE9#8⟩ []).cnt.toNat == Protocol.FRAME_RECORDS) && true
      && chkOk 0x59#8 0xA6#8 0x16#8 0xE9#8))
    ∧ false = (((st 33#6 true 0#8 ⟨0x59#8, 0xA6#8, 0x16#8, 0xE9#8⟩ []).cnt.toNat == Protocol.FRAME_RECORDS) && true
      && chkOk 0x59#8 0xA6#8 0x16#8 0xE9#8) := by decide

theorem witness_FinishFailsForItsCauses :
    (st 34#6 true 0#8 ⟨0x59#8, 0xA6#8, 0x16#8, 0xE9#8⟩ []).cnt.toNat ≤ 34
    ∧ outcomeFlag (st 34#6 true 0#8 ⟨0x59#8, 0xA6#8, 0x16#8, 0xE9#8⟩ []) = true
    ∧ outcomeFlag (st 34#6 true 0#8 ⟨0x59#8, 0xA7#8, 0x16#8, 0xE9#8⟩ []) = false := by decide

theorem witness_SecondFinishFails :
    exec .finish (st 34#6 true 0#8 ⟨0x59#8, 0xA6#8, 0x16#8, 0xE9#8⟩ [])
      = .next (shown (st 0#6 false 0#8 Slots.zero []) true true 0x59#32 0x16#32) := rfl

theorem witness_OkHoldsTheLastOutcome :
    Instr.start ≠ .finish
    ∧ exec .start (shown (st 3#6 true 0#8 Slots.zero []) true true 1#32 2#32)
      = .next (shown (st 0#6 false 0#8 Slots.zero []) false true 1#32 2#32) := ⟨by decide, rfl⟩

theorem witness_ResultWordsHoldTheBytes :
    Reachable (State.reset.applyReset) ∧ (Instr.nop ≠ .finish ∧ exec .nop State.reset = .next State.reset)
    ∧ ((st 0#6 false 0#8 Slots.zero []).concludeCall.clearTransient).ok = false
    ∧ ((st 34#6 true 0#8 ⟨0x59#8, 0xA6#8, 0x16#8, 0xE9#8⟩ []).concludeCall.clearTransient).ok = true :=
  ⟨.resetEdge _, ⟨by decide, rfl⟩, by decide, by decide⟩

theorem witness_ResultStaysUntilNextFinish :
    (∀ e ∈ [w 0x000000000, w 0xA23282328, w 0x400000000], e.rst = 0#1 ∧ decode e.word ≠ .finish)
    ∧ (∀ e ∈ [w 0x000000000, w 0x20D340230], (e.rst = 0#1 ∧ decode e.word ≠ .finish) ∧ e.idles = true)
    ∧ (st 0#6 false 0#8 Slots.zero [w 0x000000000, w 0xA23282328, w 0x400000000]).inputs
        = [w 0x000000000, w 0xA23282328, w 0x400000000] ++ [] := by decide

/-- Two states with different hidden registers and equal outputs, at the same PUSH edge. -/
theorem witness_HiddenRegistersDoNotShow :
    (st 34#6 true 0#8 Slots.zero [w 0xA23282328]).inputs = w 0xA23282328 :: []
    ∧ (st 33#6 false 0#8 ⟨1#8, 2#8, 3#8, 4#8⟩ [w 0xA23282328, w 0]).inputs = w 0xA23282328 :: [w 0]
    ∧ (w 0xA23282328).endsCall = false
    ∧ (st 34#6 true 0#8 Slots.zero [w 0xA23282328]).outputs
        = (st 33#6 false 0#8 ⟨1#8, 2#8, 3#8, 4#8⟩ [w 0xA23282328, w 0]).outputs
    ∧ step (st 34#6 true 0#8 Slots.zero [w 0xA23282328]) = .next (st 34#6 true 0#8 Slots.zero [])
    ∧ step (st 33#6 false 0#8 ⟨1#8, 2#8, 3#8, 4#8⟩ [w 0xA23282328, w 0])
        = .next (st 34#6 false 0#8 ⟨1#8, 2#8, 3#8, 4#8⟩ [w 0]) :=
  ⟨by decide, by decide, by decide, by decide, rfl, rfl⟩

/-- A state in mid-frame that has I1 to I6, and a step from it. -/
theorem witness_EveryStepKeepsTheInvariants :
    (st 32#6 true 0x01#8 ⟨0x59#8, 0xA6#8, 0x16#8, 0#8⟩ [w 0xA0D340230]).Inv
    ∧ step (st 32#6 true 0x01#8 ⟨0x59#8, 0xA6#8, 0x16#8, 0#8⟩ [w 0xA0D340230])
      = .next (st 33#6 true 0#8 ⟨0x59#8, 0xA6#8, 0x16#8, 0x80#8⟩ []) := ⟨by decide, rfl⟩

theorem witness_ReachableStatesHaveTheInvariants : Reachable ((st 63#6 true 0xFF#8 Slots.zero [w 0]).applyReset) :=
  .resetEdge _

theorem witness_CountAdvancesAndSaturates :
    (st 34#6 true 0#8 Slots.zero [w 0xA23282328]).cnt.toNat ≤ 34
    ∧ (st 34#6 true 0#8 Slots.zero [w 0xA23282328]).inputs = w 0xA23282328 :: [] ∧ (w 0xA23282328).rst = 0#1 := by decide

/-- A call of one record with a NOP beside it, begun by a START in an arbitrary state and ended by a FINISH. -/
def shortCall : State := st 50#6 true 0xFF#8 Slots.zero [w 0x400000000, w 0, w 0xA23282328, w 0xC00000000, w 0]

theorem witness_CallEqualsReferenceDecode :
    (w 0x400000000).beginsCall = true ∧ callRecords [w 0, w 0xA23282328] = some [header] ∧ (w 0xC00000000).endsCall = true
    ∧ shortCall.inputs = w 0x400000000 :: ([w 0, w 0xA23282328] ++ w 0xC00000000 :: [w 0]) := by decide

/-- The whole frame of address 0x59 and command 0x16 in a call that succeeds: after a reset edge, with a NOP after the header. -/
theorem witness_CallEqualsReferenceDecode_success :
    rstEdge.beginsCall = true
    ∧ callRecords (Inputs.drivePush header :: w 0 :: (dataRecords59 ++ [header]).map Inputs.drivePush)
        = some (header :: (dataRecords59 ++ [header]))
    ∧ (w 0xC00000000).endsCall = true
    ∧ referenceDecode testVectorConfig (header :: (dataRecords59 ++ [header])) = .success 0x59#32 0x16#32 := by decide

/-- The same record in two calls: one after a START with a NOP beside it, one after a reset edge. -/
theorem witness_SameSequenceSameOutcome :
    shortCall.cfg = (st 0#6 false 0#8 Slots.zero [rstEdge, w 0xA23282328, w 0xC00000000]).cfg
    ∧ (w 0x400000000).beginsCall = true ∧ rstEdge.beginsCall = true
    ∧ callRecords [w 0, w 0xA23282328] = some [header] ∧ callRecords [w 0xA23282328] = some [header]
    ∧ (w 0xC00000000).endsCall = true
    ∧ shortCall.inputs = w 0x400000000 :: ([w 0, w 0xA23282328] ++ w 0xC00000000 :: [w 0])
    ∧ (st 0#6 false 0#8 Slots.zero [rstEdge, w 0xA23282328, w 0xC00000000]).inputs
        = rstEdge :: ([w 0xA23282328] ++ w 0xC00000000 :: []) := by decide

theorem witness_ShortSequencesFail :
    (w 0x400000000).beginsCall = true ∧ callRecords [w 0, w 0xA23282328] = some [header] ∧ (w 0xC00000000).endsCall = true
    ∧ [header].length < 34
    ∧ shortCall.inputs = w 0x400000000 :: ([w 0, w 0xA23282328] ++ w 0xC00000000 :: [w 0]) := by decide

/-- The frame of address 0x59 and command 0x16. -/
theorem witness_ValidFramesDecode :
    34 ≤ (header :: (dataRecords59 ++ [header])).length ∧ hdrMatch testVectorConfig header = true
    ∧ ∀ k j r, k < 4 → j < 8 → (header :: (dataRecords59 ++ [header]))[8 * k + 1 + j]? = some r →
      classify testVectorConfig r = classOfBit (frameBit 0x59#8 0x16#8 k j) := by
  refine ⟨by decide, by decide, fun k j r hk hj h => ?_⟩
  have hlen : dataRecords59.length = 32 := by decide
  rw [show 8 * k + 1 + j = (8 * k + j) + 1 by omega, List.getElem?_cons_succ,
    List.getElem?_append_left (by omega)] at h
  have := class_at testVectorConfig dataRecords59 32 (fun n => classOfBit (frameBit 0x59#8 0x16#8 (n / 8) (n % 8)))
    (by decide) _ _ h
  rwa [show (8 * k + j) / 8 = k by omega, show (8 * k + j) % 8 = j by omega] at this

/-- A call that captures no byte: four zero bytes fail the checksum. -/
theorem witness_BadChecksumFails :
    (w 0x400000000).beginsCall = true ∧ callRecords [w 0, w 0xA23282328] = some (header :: [])
    ∧ (w 0xC00000000).endsCall = true ∧ Slots.zero = capturedBytes shortCall.cfg ([].take 32)
    ∧ chkOk Slots.zero.addr Slots.zero.addrComp Slots.zero.cmd Slots.zero.cmdComp = false
    ∧ shortCall.inputs = w 0x400000000 :: ([w 0, w 0xA23282328] ++ w 0xC00000000 :: [w 0]) := by decide

theorem witness_HeaderFailureFailsTheCall :
    (w 0x400000000).beginsCall = true
    ∧ callRecords [w 0xA0D340230] = some (⟨0#1, 560#16, 1#1, 1690#16⟩ :: [])
    ∧ (w 0xC00000000).endsCall = true ∧ hdrMatch testVectorConfig ⟨0#1, 560#16, 1#1, 1690#16⟩ = false
    ∧ (st 0#6 false 0#8 Slots.zero [w 0x400000000, w 0xA0D340230, w 0xC00000000]).inputs
        = w 0x400000000 :: ([w 0xA0D340230] ++ w 0xC00000000 :: []) := by decide

theorem witness_RecordsAfterTheFrameAreIgnored : 34 ≤ frameP3.length := by decide

end Sys2Proof.Tests
end

section
/-! PROOFS. The registers of spec/10_state.md: the views of `CNT`, the result registers and their ports, and I1 to I6 (R22). -/

namespace Sys2Proof.Machine

/-! ### The views of `CNT` and the slots -/

theorem bitPos_toNat (c : BitVec 6) (h1 : 1 ≤ c.toNat) : (bitPos c).toNat = (c.toNat - 1) % 8 := by
  revert c; decide

theorem byteIdx_toNat (c : BitVec 6) (h1 : 1 ≤ c.toNat) (h2 : c.toNat ≤ 32) :
    (byteIdx c).toNat = (c.toNat - 1) / 8 := by
  rw [byteIdx_eq c h1 h2, BitVec.toNat_ofNat]
  omega

@[simp] theorem Slots.get_zero (k : BitVec 2) : Slots.zero.get k = 0x00#8 := by
  rcases two_bits_cases k with rfl | rfl | rfl | rfl <;> rfl

/-! ### What a PUSH leaves in each register -/

@[simp] theorem pushRecord_done (r : PulseRecord) (s : State) : (pushRecord r s).done = false := by
  obtain ⟨-, -, -, -, -, -, h⟩ := pushRecord_keeps r s
  exact h

@[simp] theorem pushRecord_ok (r : PulseRecord) (s : State) : (pushRecord r s).ok = s.ok :=
  (pushRecord_keeps r s).1

@[simp] theorem pushRecord_addrOut (r : PulseRecord) (s : State) : (pushRecord r s).addrOut = s.addrOut := by
  obtain ⟨-, h, -⟩ := pushRecord_keeps r s
  exact h

@[simp] theorem pushRecord_cmdOut (r : PulseRecord) (s : State) : (pushRecord r s).cmdOut = s.cmdOut := by
  obtain ⟨-, -, h, -⟩ := pushRecord_keeps r s
  exact h

/-- R14, R71: a PUSH counts, and saturates at 34. -/
theorem pushRecord_cnt (r : PulseRecord) (s : State) (h : s.cnt.toNat ≤ 34) :
    (pushRecord r s).cnt.toNat = min (s.cnt.toNat + 1) 34 := by
  have hsucc := count_succ s.cnt (by omega)
  rcases pushRecord_cases r s with ⟨h0, e⟩ | ⟨h1, h2, -, e⟩ | ⟨h1, h2, -, e⟩ | ⟨h33, e⟩ <;> rw [e]
  · simp [h0]
  · simp only [hsucc]; omega
  · simp only [hsucc]; omega
  · have hcnt := count_eq_iff s.cnt 33 (by omega)
    by_cases h : s.cnt = 33#6
    · simp [h]
    · have hne : s.cnt.toNat ≠ 33 := mt hcnt.2 h
      simp only [h, if_false]
      omega

/-! ### The result registers and their ports -/

@[simp] theorem resultWord_true (b : Byte) : resultWord true b = b.setWidth 32 := rfl

@[simp] theorem resultWord_false (b : Byte) : resultWord false b = 0x00000000#32 := rfl

/-- R33: a widened byte leaves bits 31:8 at 0, and so does the 0 of a failure. -/
theorem resultWord_upper_bits (ok : Bool) (b : Byte) : (resultWord ok b).extractLsb' 8 24 = 0x000000#24 := by
  cases ok with
  | false => simp
  | true =>
    apply BitVec.eq_of_getLsbD_eq
    intro i hi
    simp

/-- R20, R21: no operation but FINISH writes the result registers. -/
theorem exec_keeps_results (i : Instr) (s t : State) (hi : i ≠ .finish) (h : exec i s = .next t) :
    t.ok = s.ok ∧ t.addrOut = s.addrOut ∧ t.cmdOut = s.cmdOut := by
  cases i <;> injection h with h <;> subst h
  case nop => simp
  case start => simp
  case push => simp
  case finish => exact absurd rfl hi

/-- What the ports show after an edge that is no FINISH, from what they showed before and the inputs of the edge. -/
def outputsAfterEdge (e : Inputs) (o : Outputs) : Outputs :=
  if e.rst = 1#1 then { done := 0#1, ok := 0#1, addrOut := 0x00000000#32, cmdOut := 0x00000000#32 }
  else if decode e.word = .nop then o
  else { o with done := 0#1 }

theorem outputs_of_atEdge (e : Inputs) (s t : State) (he : e.endsCall = false) (h : atEdge e s = .next t) :
    t.outputs = outputsAfterEdge e s.outputs := by
  rcases atEdge_cases e s t h with ⟨hr, rfl⟩ | ⟨hr, hd, rfl⟩ | ⟨hr, hd, rfl⟩ | ⟨hr, ⟨r, hd, rfl⟩⟩ | ⟨hr, hd, -⟩
  · rw [outputsAfterEdge, if_pos hr]; rfl
  · simp [outputsAfterEdge, hr, hd]
  · simp [outputsAfterEdge, hr, hd, State.outputs]
  · simp [outputsAfterEdge, hr, hd, State.outputs]
  · have := (endsCall_iff e).2 ⟨hr, hd⟩
    rw [he] at this
    cases this

/-! ### The invariants I1 to I6 -/

/-- I4 slot by slot: `SLOT[k]` is captured at record 8k + 8. -/
theorem invSlots_iff (s : State) :
    s.InvSlots ↔ ∀ k : BitVec 2, s.cnt.toNat ≤ 8 * k.toNat + 8 → s.slot.get k = 0x00#8 := by
  constructor
  · rintro ⟨h0, h1, h2, h3⟩ k
    rcases two_bits_cases k with rfl | rfl | rfl | rfl
    exacts [h0, h1, h2, h3]
  · exact fun h => ⟨h 0#2, h 1#2, h 2#2, h 3#2⟩

/-- I1 to I4 hold of cleared transient registers, so that I5 and I6 are left. -/
theorem inv_of_cleared (t : State) (hcnt : t.cnt = 0#6) (hhdr : t.hdrOk = false) (hacc : t.acc = 0x00#8)
    (hslot : t.slot = Slots.zero) (hwidth : t.InvWidth) (hfailed : t.InvFailed) : t.Inv :=
  ⟨by simp [hcnt], fun _ => hacc, fun _ => ⟨hhdr, hslot⟩, (invSlots_iff t).2 (by simp [hslot]), hwidth, hfailed⟩

theorem applyReset_inv (s : State) : s.applyReset.Inv :=
  inv_of_cleared _ rfl rfl rfl rfl ⟨by simp, by simp⟩ (fun _ => ⟨rfl, rfl⟩)

theorem start_inv (s : State) (hs : s.Inv) : (s.clearTransient.setDone false).Inv := by
  obtain ⟨-, -, -, -, hwidth, hfailed⟩ := hs
  exact inv_of_cleared _ rfl rfl rfl rfl hwidth hfailed

theorem finish_inv (s : State) : s.concludeCall.clearTransient.Inv := by
  refine inv_of_cleared _ rfl rfl rfl rfl ⟨resultWord_upper_bits _ _, resultWord_upper_bits _ _⟩ fun hok => ?_
  have hflag : outcomeFlag s = false := hok
  simp [hflag]

/-- I2 after a PUSH: `ACC` is 0 where a byte begins, because the record before ended the last one. -/
theorem pushRecord_invAcc (r : PulseRecord) (s : State) (hcount : s.InvCount) (hacc : s.InvAcc) :
    (pushRecord r s).InvAcc := by
  intro hmem
  rw [pushRecord_cnt r s hcount] at hmem
  simp only [List.mem_cons, List.not_mem_nil, or_false] at hmem
  rcases pushRecord_cases r s with ⟨h0, e⟩ | ⟨h1, h2, h8, e⟩ | ⟨-, -, -, e⟩ | ⟨h33, e⟩ <;> rw [e]
  · exact hacc (by simp [h0])
  · omega
  · exact hacc (by simp only [List.mem_cons, List.not_mem_nil, or_false]; omega)

/-- I4 after a PUSH: the only slot written is the one whose byte this record ends. -/
theorem pushRecord_invSlots (r : PulseRecord) (s : State) (hcount : s.InvCount) (hslots : s.InvSlots) :
    (pushRecord r s).InvSlots := by
  rw [invSlots_iff] at hslots ⊢
  intro k hk
  rw [pushRecord_cnt r s hcount] at hk
  have hkeep : s.slot.get k = 0x00#8 := hslots k (by omega)
  rcases pushRecord_cases r s with ⟨-, e⟩ | ⟨-, -, -, e⟩ | ⟨h1, h2, h8, e⟩ | ⟨-, e⟩ <;> rw [e]
  · exact hkeep
  · exact hkeep
  · have hne : k ≠ byteIdx s.cnt := by
      rintro rfl
      rw [byteIdx_toNat s.cnt h1 h2] at hk
      omega
    rw [Slots.get_set, if_neg hne, hkeep]
  · exact hkeep

theorem pushRecord_inv (r : PulseRecord) (s : State) (hs : s.Inv) : (pushRecord r s).Inv := by
  obtain ⟨hcount, hacc, -, hslots, hwidth, hfailed⟩ := hs
  have hcnt := pushRecord_cnt r s hcount
  refine ⟨?_, pushRecord_invAcc r s hcount hacc, ?_, pushRecord_invSlots r s hcount hslots, ?_, ?_⟩
  · show _ ≤ 34
    omega
  · intro h0
    omega
  · simpa [State.InvWidth] using hwidth
  · simpa [State.InvFailed] using hfailed

theorem atEdge_keeps_inv (e : Inputs) (s t : State) (hs : s.Inv) (h : atEdge e s = .next t) : t.Inv := by
  rcases atEdge_cases e s t h with ⟨-, rfl⟩ | ⟨-, -, rfl⟩ | ⟨-, -, rfl⟩ | ⟨-, ⟨r, -, rfl⟩⟩ | ⟨-, -, rfl⟩
  · exact applyReset_inv s
  · exact hs
  · exact start_inv s hs
  · exact pushRecord_inv r s hs
  · exact finish_inv s

/-- Settles O50: I1 to I6 do not speak of the listed inputs that `step` takes off, and every edge keeps them. -/
theorem everyStepKeepsTheInvariants : Obligations.EveryStepKeepsTheInvariants := by
  intro s t hs h
  obtain ⟨e, ins, n, hedge⟩ := step_is_edge s
  rw [hedge] at h
  exact atEdge_keeps_inv e { s with inputs := ins, freeEdges := n } t hs h

/-- Settles O51: the reset state is what a reset edge leaves. -/
theorem resetHasTheInvariants : Obligations.ResetHasTheInvariants := applyReset_inv State.reset

/-- Settles O52, by induction on reachability. -/
theorem reachableStatesHaveTheInvariants : Obligations.ReachableStatesHaveTheInvariants := by
  intro s hs
  induction hs with
  | resetEdge s => exact applyReset_inv s
  | step s t _ hstep ih => exact everyStepKeepsTheInvariants s t ih hstep

/-! ### The count and its views -/

/-- Settles O36. -/
theorem positionViewsOfCount : Obligations.PositionViewsOfCount := by
  intro r s h1 h2
  refine ⟨bitPos_toNat s.cnt h1, byteIdx_toNat s.cnt h1 h2, ?_, _, exec_push _ _ _ _ s, ?_⟩
  · rw [bitPos_eq_seven s.cnt h1 h2]
    simp only [List.mem_cons, List.not_mem_nil, or_false]
    omega
  · rw [pushRecord_cnt _ s (by omega)]
    omega

/-- Settles O53: only a PUSH computes with `CNT`. -/
theorem countAdvancesAndSaturates : Obligations.CountAdvancesAndSaturates := by
  intro s e rest hcnt hins hrst
  rw [step_of_cons s e rest hins, atEdge_exec e _ hrst]
  cases decode e.word with
  | nop => exact ⟨_, rfl, rfl⟩
  | start => exact ⟨_, rfl, rfl⟩
  | push l0 d0 l1 d1 => exact ⟨_, rfl, pushRecord_cnt _ _ hcnt⟩
  | finish => exact ⟨_, rfl, rfl⟩

/-! ### The results and the ports -/

/-- Settles O15. -/
theorem resetStateHoldsResetValues : Obligations.ResetStateHoldsResetValues :=
  ⟨rfl, rfl, rfl, Slots.get_zero, rfl, rfl, rfl, rfl⟩

/-- Settles O45. -/
theorem doneMarksAFreshResult : Obligations.DoneMarksAFreshResult := by
  refine ⟨fun i s => ?_, fun _ => rfl, fun s => ?_⟩
  · cases i with
    | nop => exact ⟨_, rfl, rfl⟩
    | start => exact ⟨_, rfl, rfl⟩
    | push l0 d0 l1 d1 => exact ⟨_, rfl, pushRecord_done _ s⟩
    | finish => exact ⟨_, rfl, rfl⟩
  · cases h : s.done <;> simp [h]

/-- Settles O46. -/
theorem okHoldsTheLastOutcome : Obligations.OkHoldsTheLastOutcome := by
  refine ⟨fun s => ⟨_, exec_finish s, rfl⟩, fun i s t hi h => (exec_keeps_results i s t hi h).1, fun _ => rfl,
    fun s => ?_⟩
  cases h : s.ok <;> simp [h]

/-- Settles O47: the formula of `resultWord` at FINISH, the frame of the other operations, and I5 of reachable states. -/
theorem resultWordsHoldTheBytes : Obligations.ResultWordsHoldTheBytes := by
  refine ⟨fun s => ⟨_, exec_finish s, ?_, ?_⟩, fun i s t hi h => (exec_keeps_results i s t hi h).2, fun _ => ⟨rfl, rfl⟩,
    fun s hs => ?_, fun _ => ⟨rfl, rfl⟩⟩
  · intro hok
    have hflag : outcomeFlag s = true := hok
    simp [hflag]
  · intro hok
    have hflag : outcomeFlag s = false := hok
    simp [hflag]
  · obtain ⟨-, -, -, -, hwidth, -⟩ := reachableStatesHaveTheInvariants s hs
    exact hwidth

/-- Settles O49: both sides are `outputsAfterEdge` of the same inputs and outputs. -/
theorem hiddenRegistersDoNotShow : Obligations.HiddenRegistersDoNotShow := by
  intro s s' t t' e rest rest' hins hins' he hout h h'
  rw [step_of_cons s e rest hins] at h
  rw [step_of_cons s' e rest' hins'] at h'
  calc t.outputs = outputsAfterEdge e s.outputs := outputs_of_atEdge e { s with inputs := rest } t he h
    _ = outputsAfterEdge e s'.outputs := by rw [hout]
    _ = t'.outputs := (outputs_of_atEdge e { s' with inputs := rest' } t' he h').symm

/-! ### What `Decode` reads of a sequence -/

/-- Of a sequence of at least 34 records, R75 reads the first 33. -/
theorem referenceDecode_eq_of_take_eq (cfg : Config) (seq seq' : List PulseRecord) (h : 34 ≤ seq.length)
    (h' : 34 ≤ seq'.length) (htake : seq.take 33 = seq'.take 33) : referenceDecode cfg seq = referenceDecode cfg seq' := by
  cases seq with
  | nil => simp at h
  | cons header rest =>
    cases seq' with
    | nil => simp at h'
    | cons header' rest' =>
      simp only [List.take_succ_cons, List.cons.injEq] at htake
      obtain ⟨rfl, hrest⟩ := htake
      unfold referenceDecode
      rw [if_neg (Nat.not_lt.2 h), if_neg (Nat.not_lt.2 h')]
      simp only [Protocol.DATA_BITS, hrest]

/-- Settles O60: neither change touches the first 33 records or shortens the sequence below 34. -/
theorem recordsAfterTheFrameAreIgnored : Obligations.RecordsAfterTheFrameAreIgnored := by
  intro cfg seq extra r h
  constructor
  · refine referenceDecode_eq_of_take_eq cfg _ _ ?_ h (List.take_append_of_le_length (by omega))
    rw [List.length_append]
    omega
  · refine referenceDecode_eq_of_take_eq cfg _ _ ?_ h (List.take_set_of_le (Nat.le_refl 33))
    rwa [List.length_set]

end Sys2Proof.Machine
end

section
/-! PROOFS. The bytes and the frame word of spec/20_memory.md (R29 to R32), and the second FINISH of R36. -/

namespace Sys2Proof.Machine

/-! ### One bit shifted into the accumulator (R29) -/

/-- R29's update of `ACC` by a recognized bit: one place down, the bit in at bit 7. -/
def shiftInBit (acc : Byte) (b : Bool) : Byte := if b then (acc >>> 1) ||| 0x80#8 else acc >>> 1

theorem shiftInBit_getLsbD (acc : Byte) (b : Bool) (j : Nat) (hj : j < 8) :
    (shiftInBit acc b).getLsbD j = if j = 7 then b else acc.getLsbD (j + 1) := by
  have hbit : (0x80#8).getLsbD j = decide (j = 7) := by revert j; decide
  cases b <;> by_cases h7 : j = 7 <;> simp [shiftInBit, hbit, h7, Nat.add_comm]

/-- After n bits the last of them stands at bit 7, and what `ACC` held has moved n places down. -/
theorem foldl_shiftInBit_getLsbD (bs : List Bool) (acc : Byte) (j : Nat) (hj : j < 8) :
    (bs.foldl shiftInBit acc).getLsbD j =
      if j + bs.length < 8 then acc.getLsbD (j + bs.length) else bs.getD (j + bs.length - 8) false := by
  induction bs generalizing acc with
  | nil => simp [hj]
  | cons b bs ih =>
    rw [List.foldl_cons, ih, List.length_cons]
    rcases Nat.lt_trichotomy (j + bs.length) 7 with h | h | h
    · rw [if_pos (by omega), if_pos (by omega), shiftInBit_getLsbD _ _ _ (by omega), if_neg (by omega), Nat.add_assoc]
    · rw [if_pos (by omega), if_neg (by omega), shiftInBit_getLsbD _ _ _ (by omega), if_pos h]
      simp [← Nat.add_assoc, h]
    · have hsub : j + (bs.length + 1) - 8 = (j + bs.length - 8) + 1 := by omega
      rw [if_neg (by omega), if_neg (by omega), hsub, List.getD_cons_succ]

/-! ### The classes of a byte's records as bits (R30) -/

theorem classify_cases (cfg : Config) (r : PulseRecord) :
    (∃ b, classify cfg r = classOfBit b) ∨ classify cfg r = .unrec := by
  cases h : classify cfg r with
  | one => exact .inl ⟨true, rfl⟩
  | zero => exact .inl ⟨false, rfl⟩
  | unrec => exact .inr rfl

theorem accNext_of_bit (cfg : Config) (acc : Byte) (r : PulseRecord) (b : Bool) (h : classify cfg r = classOfBit b) :
    accNext cfg acc r = shiftInBit acc b := by
  cases b <;> simp [accNext, h, classOfBit, shiftInBit]

theorem accNext_of_unrec (cfg : Config) (acc : Byte) (r : PulseRecord) (h : classify cfg r = .unrec) :
    accNext cfg acc r = acc := by
  simp [accNext, h]

theorem recognizedBits_cons_of_bit (cfg : Config) (r : PulseRecord) (rs : List PulseRecord) (b : Bool)
    (h : classify cfg r = classOfBit b) : recognizedBits cfg (r :: rs) = b :: recognizedBits cfg rs := by
  cases b <;> simp [recognizedBits, h, classOfBit]

theorem recognizedBits_cons_of_unrec (cfg : Config) (r : PulseRecord) (rs : List PulseRecord)
    (h : classify cfg r = .unrec) : recognizedBits cfg (r :: rs) = recognizedBits cfg rs := by
  simp [recognizedBits, h]

theorem recognizedBits_length_le (cfg : Config) (rs : List PulseRecord) :
    (recognizedBits cfg rs).length ≤ rs.length :=
  List.length_filterMap_le _ rs

/-- Records that carry the bits of `v` in order are all recognized. -/
theorem recognizedBits_of_classes (cfg : Config) (rs : List PulseRecord) (v : Nat → Bool)
    (h : ∀ j r, rs[j]? = some r → classify cfg r = classOfBit (v j)) :
    recognizedBits cfg rs = (List.range rs.length).map v := by
  induction rs generalizing v with
  | nil => rfl
  | cons r rs ih =>
    rw [recognizedBits_cons_of_bit cfg r rs (v 0) (h 0 r rfl), ih (v ∘ Nat.succ) fun j q hq => h (j + 1) q hq,
      List.length_cons, List.range_succ_eq_map, List.map_cons, List.map_map]

/-- An unrecognized record leaves `ACC`, so a run of records shifts in the recognized bits and nothing else. -/
theorem foldl_accNext (cfg : Config) (rs : List PulseRecord) (acc : Byte) :
    rs.foldl (accNext cfg) acc = (recognizedBits cfg rs).foldl shiftInBit acc := by
  induction rs generalizing acc with
  | nil => rfl
  | cons r rs ih =>
    rw [List.foldl_cons, ih]
    rcases classify_cases cfg r with ⟨b, h⟩ | h
    · rw [accNext_of_bit cfg acc r b h, recognizedBits_cons_of_bit cfg r rs b h, List.foldl_cons]
    · rw [accNext_of_unrec cfg acc r h, recognizedBits_cons_of_unrec cfg r rs h]

/-! ### R30's sum, bit by bit -/

theorem bitsAt_succ (p : Nat) (bs : List Bool) : bitsAt (p + 1) bs = 2 * bitsAt p bs := by
  induction bs generalizing p with
  | nil => rfl
  | cons b bs ih => simp only [bitsAt, ih (p + 1), Nat.pow_succ]; ring

theorem bitsAt_eq_two_pow_mul (p : Nat) (bs : List Bool) : bitsAt p bs = 2 ^ p * bitsAt 0 bs := by
  induction p with
  | zero => simp
  | succ p ih => rw [bitsAt_succ, ih, Nat.pow_succ]; ring

theorem bitsAt_zero_cons (b : Bool) (bs : List Bool) : bitsAt 0 (b :: bs) = Nat.bit b (bitsAt 0 bs) := by
  rw [Nat.bit_val, bitsAt, bitsAt_succ]
  ring

theorem testBit_bitsAt_zero (bs : List Bool) (j : Nat) : (bitsAt 0 bs).testBit j = bs.getD j false := by
  induction bs generalizing j with
  | nil => simp [bitsAt]
  | cons b bs ih =>
    rw [bitsAt_zero_cons]
    cases j with
    | zero => rw [Nat.testBit_bit_zero, List.getD_cons_zero]
    | succ j => rw [Nat.testBit_bit_succ, ih, List.getD_cons_succ]

theorem testBit_bitsAt (p : Nat) (bs : List Bool) (j : Nat) :
    (bitsAt p bs).testBit j = (decide (p ≤ j) && bs.getD (j - p) false) := by
  rw [bitsAt_eq_two_pow_mul, Nat.testBit_two_pow_mul, testBit_bitsAt_zero]

theorem capturedByte_getLsbD (cfg : Config) (rs : List PulseRecord) (j : Nat) (hj : j < 8) :
    (capturedByte cfg rs).getLsbD j =
      (decide (8 - (recognizedBits cfg rs).length ≤ j)
        && (recognizedBits cfg rs).getD (j - (8 - (recognizedBits cfg rs).length)) false) := by
  rw [capturedByte, BitVec.getLsbD_ofNat, testBit_bitsAt]
  simp [hj]

/-- R30: what up to eight records shift into `ACC` = 0 is the rule's sum. -/
theorem foldl_accNext_eq_capturedByte (cfg : Config) (rs : List PulseRecord) (h : rs.length ≤ 8) :
    rs.foldl (accNext cfg) 0x00#8 = capturedByte cfg rs := by
  have hn := recognizedBits_length_le cfg rs
  apply BitVec.eq_of_getLsbD_eq
  intro j hj
  rw [foldl_accNext, foldl_shiftInBit_getLsbD _ _ j hj, capturedByte_getLsbD cfg rs j hj]
  by_cases hlow : j + (recognizedBits cfg rs).length < 8
  · have : ¬ 8 - (recognizedBits cfg rs).length ≤ j := by omega
    simp [hlow, this]
  · have hge : 8 - (recognizedBits cfg rs).length ≤ j := by omega
    have hidx : j + (recognizedBits cfg rs).length - 8 = j - (8 - (recognizedBits cfg rs).length) := by omega
    simp [hlow, hge, hidx]

/-- R29: eight recognized records give the byte whose bits they carry, bit 0 first. -/
theorem capturedByte_of_classes (cfg : Config) (rs : List PulseRecord) (v : Byte) (hlen : rs.length = 8)
    (h : ∀ j r, rs[j]? = some r → classify cfg r = classOfBit (v.getLsbD j)) : capturedByte cfg rs = v := by
  apply BitVec.eq_of_getLsbD_eq
  intro j hj
  rw [capturedByte_getLsbD cfg rs j hj, recognizedBits_of_classes cfg rs v.getLsbD h]
  simp [hlen, hj]

/-! ### R75's loop over whole bytes -/

/-- Records up to the end of their byte are shifted in, and the last one captures the byte. -/
theorem scanFrom_to_byte_end (cfg : Config) (i : Nat) (rs : List PulseRecord) (v : Scan) (hi : 1 ≤ i)
    (h : (i - 1) % 8 + rs.length = 8) :
    scanFrom cfg i rs v =
      { acc := 0x00#8, b := v.b.set (BitVec.ofNat 2 ((i - 1) / 8)) (rs.foldl (accNext cfg) v.acc) } := by
  induction rs generalizing i v with
  | nil => simp only [List.length_nil] at h; omega
  | cons r rs ih =>
    rw [List.length_cons] at h
    rw [scanFrom, scanRecord, List.foldl_cons]
    by_cases h7 : (i - 1) % 8 = 7
    · have hnil : rs = [] := List.eq_nil_of_length_eq_zero (by omega)
      simp [h7, hnil, scanFrom]
    · have hdiv : (i + 1 - 1) / 8 = (i - 1) / 8 := by omega
      rw [if_neg h7, ih (i + 1) _ (by omega) (by omega), hdiv]

theorem scanFrom_append (cfg : Config) (i : Nat) (xs ys : List PulseRecord) (v : Scan) :
    scanFrom cfg i (xs ++ ys) v = scanFrom cfg (i + xs.length) ys (scanFrom cfg i xs v) := by
  induction xs generalizing i v with
  | nil => rfl
  | cons x xs ih => rw [List.cons_append, scanFrom, ih, scanFrom, List.length_cons, Nat.add_right_comm, Nat.add_assoc]

/-- The eight records of byte `k` are captured into slot `k` (R31). -/
theorem scanFrom_byte (cfg : Config) (k : Nat) (rs : List PulseRecord) (b : Slots) (hlen : rs.length = 8) :
    scanFrom cfg (8 * k + 1) rs { acc := 0x00#8, b := b } =
      { acc := 0x00#8, b := b.set (BitVec.ofNat 2 k) (capturedByte cfg rs) } := by
  have hk : (8 * k + 1 - 1) / 8 = k := by omega
  rw [scanFrom_to_byte_end cfg _ rs _ (by omega) (by omega), hk, foldl_accNext_eq_capturedByte cfg rs (by omega)]

/-- The records of byte `k` among the data records (R31, R34). -/
def recordsOfByte (rs : List PulseRecord) (k : Nat) : List PulseRecord := (rs.drop (8 * k)).take 8

theorem recordsOfByte_length (rs : List PulseRecord) (k : Nat) (h : 8 * k + 8 ≤ rs.length) :
    (recordsOfByte rs k).length = 8 := by
  rw [recordsOfByte, List.length_take, List.length_drop]
  omega

theorem recordsOfByte_getElem? (rs : List PulseRecord) (k j : Nat) (hj : j < 8) :
    (recordsOfByte rs k)[j]? = rs[8 * k + j]? := by
  rw [recordsOfByte, List.getElem?_take_of_lt hj, List.getElem?_drop]

/-- R75's loop from byte `k` on does byte `k` and goes on with the next. -/
theorem scanFrom_drop_byte (cfg : Config) (k : Nat) (rs : List PulseRecord) (b : Slots) (h : 8 * k + 8 ≤ rs.length) :
    scanFrom cfg (8 * k + 1) (rs.drop (8 * k)) { acc := 0x00#8, b := b } =
      scanFrom cfg (8 * (k + 1) + 1) (rs.drop (8 * (k + 1)))
        { acc := 0x00#8, b := b.set (BitVec.ofNat 2 k) (capturedByte cfg (recordsOfByte rs k)) } := by
  have hlen := recordsOfByte_length rs k h
  have hsplit : rs.drop (8 * k) = recordsOfByte rs k ++ rs.drop (8 * (k + 1)) := by
    rw [recordsOfByte, Nat.mul_succ, ← List.drop_drop, List.take_append_drop]
  have hnext : 8 * k + 1 + 8 = 8 * (k + 1) + 1 := by omega
  rw [hsplit, scanFrom_append, scanFrom_byte cfg k _ b hlen, hlen, hnext]

/-- R31: 32 data records give the four slots, whatever these held before. -/
theorem scanFrom_frame (cfg : Config) (rs : List PulseRecord) (b : Slots) (hlen : rs.length = 32) :
    scanFrom cfg 1 rs { acc := 0x00#8, b := b } =
      { acc := 0x00#8
        b :=
          { addr := capturedByte cfg (recordsOfByte rs 0), addrComp := capturedByte cfg (recordsOfByte rs 1)
            cmd := capturedByte cfg (recordsOfByte rs 2), cmdComp := capturedByte cfg (recordsOfByte rs 3) } } := by
  have hend : rs.drop (8 * 4) = [] := List.drop_eq_nil_of_le (by omega)
  calc scanFrom cfg 1 rs { acc := 0x00#8, b := b }
    _ = scanFrom cfg (8 * 0 + 1) (rs.drop (8 * 0)) { acc := 0x00#8, b := b } := rfl
    _ = _ := by
      rw [scanFrom_drop_byte cfg 0 rs _ (by omega), scanFrom_drop_byte cfg 1 rs _ (by omega),
        scanFrom_drop_byte cfg 2 rs _ (by omega), scanFrom_drop_byte cfg 3 rs _ (by omega), hend]
      rfl

/-! ### The bytes on the core -/

/-- A run of edges that each drive one record pushes these records. -/
theorem run_map_drivePush (rs : List PulseRecord) (rest : List Inputs) (s : State)
    (h : s.inputs = rs.map Inputs.drivePush ++ rest) :
    run rs.length s = .next { pushAll rs s with inputs := rest } := by
  have hrun := run_body _ rest rs s (callRecords_map_drivePush rs) h
  rwa [List.length_map] at hrun

/-- Eight PUSHes from the first record of byte `k` with `ACC` = 0 capture R30's byte into slot `k`. -/
theorem pushAll_byte (s : State) (k : BitVec 2) (rs : List PulseRecord) (hcnt : s.cnt.toNat = 8 * k.toNat + 1)
    (hacc : s.acc = 0x00#8) (hlen : rs.length = 8) :
    pushAll rs s =
      { s with
        done := false, acc := 0x00#8, slot := s.slot.set k (capturedByte s.cfg rs),
        cnt := BitVec.ofNat 6 (8 * k.toNat + 9) } := by
  have hk := k.isLt
  have hne : rs ≠ [] := List.ne_nil_of_length_pos (by omega)
  rw [pushAll_data rs s (by omega) (by omega), hcnt, hacc, scanFrom_byte s.cfg k.toNat rs s.slot hlen, hlen,
    BitVec.ofNat_toNat]
  simp [hne]

/-- Settles O38: the run captures R30's byte, whose bits `capturedByte_getLsbD` says. -/
theorem capturedByteOfAnyRecords : Obligations.CapturedByteOfAnyRecords := by
  intro s k rs rest hcnt hacc hlen hins
  have hk := k.isLt
  have hn := recognizedBits_length_le s.cfg rs
  have hrun := run_map_drivePush rs rest s hins
  rw [hlen, pushAll_byte s k rs hcnt hacc hlen] at hrun
  refine ⟨_, hrun, ?_, by omega, fun i b hi => ?_, fun j hj => ?_, ?_, rfl, rfl⟩
  · simp [Slots.get_set]
  · have hilt : i < (recognizedBits s.cfg rs).length := (List.getElem?_eq_some_iff.1 hi).1
    rw [Slots.get_set, if_pos rfl, capturedByte_getLsbD s.cfg rs _ (by omega)]
    simp [hi]
  · have hlow : ¬ 8 - (recognizedBits s.cfg rs).length ≤ j := by omega
    rw [Slots.get_set, if_pos rfl, capturedByte_getLsbD s.cfg rs j (by omega)]
    simp [hlow]
  · rw [BitVec.toNat_ofNat]
    omega

/-- Settles O37: R30's byte of eight recognized records is the byte they carry. -/
theorem recognizedByteIsLsbFirst : Obligations.RecognizedByteIsLsbFirst := by
  intro s k rs rest v hcnt hacc hlen hclass hins
  obtain ⟨t, hrun, hslot, -⟩ := capturedByteOfAnyRecords s k rs rest hcnt hacc hlen hins
  exact ⟨t, hrun, by rw [hslot, capturedByte_of_classes s.cfg rs v hlen hclass]⟩

/-! ### The frame word (R32) -/

/-- The byte of a frame word from bit 8k on is what the records of byte `k` carry. -/
theorem capturedByte_of_frame_classes (cfg : Config) (rs : List PulseRecord) (f : Word) (k : Nat)
    (hlen : 8 * k + 8 ≤ rs.length) (h : ∀ j r, rs[j]? = some r → classify cfg r = classOfBit (f.getLsbD j)) :
    capturedByte cfg (recordsOfByte rs k) = f.extractLsb' (8 * k) 8 := by
  have hbyte := recordsOfByte_length rs k hlen
  refine capturedByte_of_classes cfg _ _ hbyte fun j r hj => ?_
  have hj8 : j < 8 := by
    obtain ⟨hlt, -⟩ := List.getElem?_eq_some_iff.1 hj
    omega
  rw [recordsOfByte_getElem? rs k j hj8] at hj
  rw [h _ r hj, BitVec.getLsbD_extractLsb']
  simp [hj8]

/-- A byte cut from a word and put back where it stood keeps the word's bits there and no others. -/
theorem extract_shiftLeft_getLsbD (f : Word) (p j : Nat) (hj : j < 32) :
    (((f.extractLsb' p 8).setWidth 32) <<< p).getLsbD j = (decide (p ≤ j ∧ j < p + 8) && f.getLsbD j) := by
  rw [BitVec.getLsbD_shiftLeft, BitVec.getLsbD_setWidth, BitVec.getLsbD_extractLsb']
  by_cases hlow : p ≤ j
  · have hback : p + (j - p) = j := by omega
    have hwidth : j - p < 8 ↔ j < p + 8 := by omega
    simp [hj, hlow, hback, hwidth, show j - p < 32 by omega]
  · simp [hlow, Nat.lt_of_not_le hlow]

/-- R32's view of the four bytes of a word, least significant byte first, is the word. -/
theorem frameWord_of_bytes (f : Word) :
    Slots.frameWord
      { addr := f.extractLsb' (8 * 0) 8, addrComp := f.extractLsb' (8 * 1) 8
        cmd := f.extractLsb' (8 * 2) 8, cmdComp := f.extractLsb' (8 * 3) 8 } = f := by
  apply BitVec.eq_of_getLsbD_eq
  intro j hj
  have h0 := extract_shiftLeft_getLsbD f (8 * 0) j hj
  rw [Nat.mul_zero, BitVec.shiftLeft_zero] at h0
  simp only [Slots.frameWord, BitVec.getLsbD_or, h0, Nat.mul_zero, extract_shiftLeft_getLsbD f _ j hj]
  cases hf : f.getLsbD j with
  | false => simp
  | true =>
    simp only [Bool.and_true, Bool.or_eq_true, decide_eq_true_eq]
    omega

/-- Settles O39: the header leaves `ACC` and the slots, and the four bytes of `f` are captured in the order of R31. -/
theorem frameWordHoldsTheDataBits : Obligations.FrameWordHoldsTheDataBits := by
  intro s header rs rest f hcnt hacc hlen hclass hins
  have hrun := run_map_drivePush (header :: rs) rest s hins
  rw [List.length_cons, hlen, pushAll_cons, pushRecord_header header s (by simp [hcnt]),
    pushAll_data rs _ (by simp) (by simp [hlen])] at hrun
  refine ⟨_, hrun, ?_⟩
  have hslots := scanFrom_frame s.cfg rs s.slot hlen
  have hbyte (k : Nat) (hk : k < 4) := capturedByte_of_frame_classes s.cfg rs f k (by omega) hclass
  rw [hbyte 0 (by omega), hbyte 1 (by omega), hbyte 2 (by omega), hbyte 3 (by omega)] at hslots
  simp only [hacc, BitVec.toNat_ofNat, Nat.reducePow, Nat.reduceMod]
  rw [hslots]
  exact frameWord_of_bytes f

/-! ### A FINISH that fails (R36, R73) -/

/-- R73: a failed call shows `OK` = 0 and both result words 0. -/
theorem concludeCall_of_failure (s : State) (h : outcomeFlag s = false) :
    s.concludeCall = { s with done := true, ok := false, addrOut := 0x00000000#32, cmdOut := 0x00000000#32 } := by
  rw [State.concludeCall, h]
  rfl

theorem outcomeFlag_of_short_call (s : State) (h : s.cnt.toNat ≠ 34) : outcomeFlag s = false :=
  Bool.eq_false_iff.2 fun hok => h ((outcomeFlag_iff s).1 hok).1

/-- Settles O44: the first FINISH leaves `CNT` = 0, so the second one fails, and the rest is already as it leaves it. -/
theorem secondFinishFails : Obligations.SecondFinishFails := by
  intro s t h
  rw [exec_finish] at h
  injection h with h
  subst h
  rw [exec_finish, concludeCall_of_failure _ (outcomeFlag_of_short_call _ (by simp))]
  rfl

end Sys2Proof.Machine
end

section
/-! PROOFS. The command word of spec/30_encoding.md: decoder against encoder (R43 to R45), the mask and match columns of
R44, the bits that R47 leaves free, the pseudo-operations of R51, and the word that a step runs. -/

namespace Sys2Proof

/-! ### The `OP` field alone (R44) -/

theorem packWord_and (op op' : BitVec 2) (l1 l1' : Level) (d1 d1' : Ticks) (l0 l0' : Level) (d0 d0' : Ticks) :
    packWord op l1 d1 l0 d0 &&& packWord op' l1' d1' l0' d0' =
      packWord (op &&& op') (l1 &&& l1') (d1 &&& d1') (l0 &&& l0') (d0 &&& d0') := by
  apply BitVec.eq_of_getLsbD_eq
  intro i _
  simp only [BitVec.getLsbD_and, packWord_bit]
  split_ifs <;> rfl

/-- R44's mask keeps `OP` and clears every bit below it. -/
theorem and_opMask (w : CommandWord) : w &&& opMask = packWord (opField w) 0#1 0#16 0#1 0#16 := by
  have hmask : opMask = packWord 0b11#2 0#1 0#16 0#1 0#16 := by decide
  have hop : opField w &&& 0b11#2 = opField w := BitVec.and_allOnes
  calc w &&& opMask
    _ = packWord (opField w) (l1Field w) (d1Field w) (l0Field w) (d0Field w) &&& packWord 0b11#2 0#1 0#16 0#1 0#16 := by
      rw [packWord_fields, hmask]
    _ = _ := by simp only [packWord_and, BitVec.and_zero, hop]

theorem and_opMask_eq_iff (w w' : CommandWord) : w &&& opMask = w' &&& opMask ↔ opField w = opField w' := by
  rw [and_opMask, and_opMask]
  exact ⟨fun h => by simpa only [opField_packWord] using congrArg opField h, fun h => by rw [h]⟩

theorem encode_and_opMask (i : Instr) : encode i &&& opMask = i.matchWord := by
  cases i with
  | nop => exact Laws.TableRow.nop
  | start => exact Laws.TableRow.start
  | push l0 d0 l1 d1 => exact Laws.TableRow.push l0 d0 l1 d1
  | finish => exact Laws.TableRow.finish

/-- A word matches an operation's row of R44 when it has the operation's `OP`. -/
theorem and_opMask_eq_matchWord_iff (w : CommandWord) (i : Instr) :
    w &&& opMask = i.matchWord ↔ opField w = opField (encode i) := by
  rw [← encode_and_opMask, and_opMask_eq_iff]

theorem decode_of_push (w : CommandWord) (h : opField w = 0b10#2) :
    decode w = .push (l0Field w) (d0Field w) (l1Field w) (d1Field w) := by
  simp [decode, h]

theorem decode_eq_of_opField_eq (w w' : CommandWord) (h : opField w = opField w') (hp : opField w ≠ 0b10#2) :
    decode w = decode w' := by
  simp only [decode, ← h, hp, if_false]

/-! ### Decoder and encoder against each other -/

theorem decode_encode (i : Instr) : decode (encode i) = i := by
  cases i with
  | nop => decide
  | start => decide
  | push l0 d0 l1 d1 =>
    rw [encode, decode_of_push _ (opField_packWord _ _ _ _ _), l0Field_packWord, d0Field_packWord, l1Field_packWord,
      d1Field_packWord]
  | finish => decide

/-- Settles O1: no operation is ill formed (R48), so `decode_encode` needs no premise. -/
theorem decodeOfEncode : Obligations.DecodeOfEncode := fun i _ => decode_encode i

/-- Settles O2: NOP, START and FINISH keep `OP` alone, and a PUSH is the packing of all its fields. -/
theorem encodeOfDecodeKeepsOperandBits : Obligations.EncodeOfDecodeKeepsOperandBits := by
  intro w
  rcases decode_cases w with ⟨hop, hd⟩ | ⟨hop, hd⟩ | ⟨hop, hd⟩ | ⟨hop, hd⟩ <;> rw [hd]
  · rw [Instr.operandMask, and_opMask, hop, encode]
  · rw [Instr.operandMask, and_opMask, hop, encode]
  · have hall : w &&& 0xFFFFFFFFF#36 = w := BitVec.and_allOnes
    rw [Instr.operandMask, hall, encode, ← hop, packWord_fields]
  · rw [Instr.operandMask, and_opMask, hop, encode]

/-- Settles O3: each row's test is a value of `OP`, and `decode_cases` says what each value decodes to. -/
theorem operationSelectedByOpAlone : Obligations.OperationSelectedByOpAlone := by
  intro w
  have hnop : w &&& 0xC00000000#36 = 0x000000000#36 ↔ opField w = 0#2 := and_opMask_eq_matchWord_iff w .nop
  have hstart : w &&& 0xC00000000#36 = 0x400000000#36 ↔ opField w = 1#2 := and_opMask_eq_matchWord_iff w .start
  have hpush : w &&& 0xC00000000#36 = 0x800000000#36 ↔ opField w = 2#2 :=
    and_opMask_eq_matchWord_iff w (.push 0#1 0#16 0#1 0#16)
  have hfinish : w &&& 0xC00000000#36 = 0xC00000000#36 ↔ opField w = 3#2 := and_opMask_eq_matchWord_iff w .finish
  rw [hnop, hstart, hpush, hfinish]
  rcases decode_cases w with ⟨hop, hd⟩ | ⟨hop, hd⟩ | ⟨hop, hd⟩ | ⟨hop, hd⟩ <;> simp [hop, hd]

/-- Settles O5, by evaluating the decoder at the eight words. -/
theorem specWordsDecode : Obligations.SpecWordsDecode := by
  unfold Obligations.SpecWordsDecode
  decide

end Sys2Proof

namespace Sys2Proof.Machine

/-! ### The record of a PUSH and the bits it ignores (R45, R47) -/

theorem exec_decode_of_push (w : CommandWord) (s : State) (h : opField w = 0b10#2) :
    exec (decode w) s = .next (pushRecord (recordOf w) s) := by
  rw [decode_of_push w h, exec_push, recordOf]

/-- Settles O4: the row of PUSH in R44 is `OP` = 10. -/
theorem pushRecordFromWord : Obligations.PushRecordFromWord := by
  intro w s h
  have hop : opField w = 0b10#2 := (and_opMask_eq_matchWord_iff w (.push 0#1 0#16 0#1 0#16)).1 h
  exact ⟨decode_of_push w hop, rfl, exec_decode_of_push w s hop⟩

/-- The record with bit 15 of both durations cleared: bits 15 and 32 of its command word (R47). -/
def maskRecord (r : PulseRecord) : PulseRecord :=
  { r with d0 := r.d0 &&& Protocol.DUR_MASK, d1 := r.d1 &&& Protocol.DUR_MASK }

theorem durUs_and_mask (cfg : Config) (d : Ticks) : durUs cfg (d &&& Protocol.DUR_MASK) = durUs cfg d := by
  rw [durUs, maskedTicks, BitVec.and_assoc, BitVec.and_self]
  rfl

theorem hdrMatch_maskRecord (cfg : Config) (r : PulseRecord) : hdrMatch cfg (maskRecord r) = hdrMatch cfg r := by
  simp only [hdrMatch, maskRecord, durUs_and_mask]

theorem isOne_maskRecord (cfg : Config) (r : PulseRecord) : isOne cfg (maskRecord r) = isOne cfg r := by
  simp only [isOne, bitShape, maskRecord, durUs_and_mask]

theorem isZero_maskRecord (cfg : Config) (r : PulseRecord) : isZero cfg (maskRecord r) = isZero cfg r := by
  simp only [isZero, bitShape, maskRecord, durUs_and_mask]

theorem classify_maskRecord (cfg : Config) (r : PulseRecord) : classify cfg (maskRecord r) = classify cfg r := by
  rw [classify, isOne_maskRecord, isZero_maskRecord, classify]

theorem accNext_maskRecord (cfg : Config) (acc : Byte) (r : PulseRecord) :
    accNext cfg acc (maskRecord r) = accNext cfg acc r := by
  rw [accNext, classify_maskRecord, accNext]

/-- A PUSH reads its record through the classifier, and so never bit 15 of a duration. -/
theorem pushRecord_maskRecord (r : PulseRecord) (s : State) : pushRecord (maskRecord r) s = pushRecord r s := by
  simp only [pushRecord, pushHeader, headerFlag, hdrMatch_maskRecord, pushData, accNext_maskRecord]

/-- Clearing bits 15 and 32 of a word clears bit 15 of the two durations of its record. -/
theorem recordOf_and_mask (w : CommandWord) : recordOf (w &&& 0xEFFFF7FFF#36) = maskRecord (recordOf w) := by
  have hl (b : Level) : b &&& 1#1 = b := BitVec.and_allOnes
  simp [recordOf, maskRecord, l0Field, d0Field, l1Field, d1Field, BitVec.extractLsb'_and, hl]

/-- Settles O6: without bits 15 and 32 the two words carry one record, and no other operation reads a bit below `OP`. -/
theorem ignoredBitsNeverChangeTheResult : Obligations.IgnoredBitsNeverChangeTheResult := by
  intro w w' s hop hmask
  by_cases hp : opField w = 0b10#2
  · have hrec : maskRecord (recordOf w) = maskRecord (recordOf w') := by
      rw [← recordOf_and_mask, hmask hp, recordOf_and_mask]
    rw [exec_decode_of_push w s hp, exec_decode_of_push w' s (hop ▸ hp), ← pushRecord_maskRecord, hrec,
      pushRecord_maskRecord]
  · rw [decode_eq_of_opField_eq w w' hop hp]

/-! ### The pseudo-operations (R51) -/

theorem expandLine_byteLine_getElem? (a : Level) (v m s0 s1 j : Nat) (hj : j < 8) :
    (expandLine a (.byteLine v m s0 s1))[j]? = some (recInstr a m (if v.testBit j then s1 else s0)) := by
  simp [expandLine, hj]

/-- Settles O7: the other level is `1 - A` for both values of `A`, and BYTE is the REC of each bit in turn. -/
theorem pseudoOperationsExpand : Obligations.PseudoOperationsExpand := by
  intro a v m s s0 s1
  have hnot : ∀ l : Level, ~~~l = 1#1 - l := by decide
  refine ⟨?_, ?_, fun j hj => ?_⟩
  · rw [expandLine, recInstr, hnot]
  · simp [expandLine]
  · rw [expandLine_byteLine_getElem? a v m s0 s1 j hj]
    rfl

/-- The record that a REC line pushes. -/
def recRecord (a : Level) (m s : Nat) : PulseRecord :=
  { l0 := a, d0 := BitVec.ofNat 16 m, l1 := ~~~a, d1 := BitVec.ofNat 16 s }

/-- The eight records that a BYTE line pushes. -/
def byteLineRecords (a : Level) (v m s0 s1 : Nat) : List PulseRecord :=
  (List.range 8).map fun j => recRecord a m (if v.testBit j then s1 else s0)

theorem map_drive_expandLine_byteLine (a : Level) (v m s0 s1 : Nat) :
    (expandLine a (.byteLine v m s0 s1)).map Inputs.drive = (byteLineRecords a v m s0 s1).map Inputs.drivePush := by
  rw [expandLine, byteLineRecords, List.map_map, List.map_map]
  rfl

theorem classify_eq_zero_iff (cfg : Config) (r : PulseRecord) : classify cfg r = .zero ↔ isZero cfg r = true := by
  have hdisjoint : isOne cfg r = true → isZero cfg r = false := fun h1 => Bool.eq_false_iff.2 fun h0 =>
    one_and_zero_windows_disjoint _ ((isOne_iff cfg r).1 h1).2 ((isZero_iff cfg r).1 h0).2
  unfold classify
  split
  · next h1 => simp [hdisjoint h1]
  · split <;> simp [*]

/-- A REC line whose mark lies in its window has the shape of a data bit (R57). -/
theorem bitShape_recRecord (cfg : Config) (m s : Nat)
    (hm : inWin (durUs cfg (BitVec.ofNat 16 m)) Protocol.BIT_MARK_US Protocol.BIT_TOL = true) :
    bitShape cfg (recRecord cfg.activeLevel m s) = true := by
  have hnot : ∀ l : Level, ~~~l ≠ l := by decide
  exact (bitShape_iff _ _).2 ⟨rfl, hnot _, hm⟩

/-- A REC line carries bit `b` when its space lies in the window of `b`. -/
theorem classify_recRecord (cfg : Config) (m s0 s1 : Nat) (b : Bool)
    (hm : inWin (durUs cfg (BitVec.ofNat 16 m)) Protocol.BIT_MARK_US Protocol.BIT_TOL = true)
    (h0 : inWin (durUs cfg (BitVec.ofNat 16 s0)) Protocol.ZERO_SPACE_US Protocol.BIT_TOL = true)
    (h1 : inWin (durUs cfg (BitVec.ofNat 16 s1)) Protocol.ONE_SPACE_US Protocol.BIT_TOL = true) :
    classify cfg (recRecord cfg.activeLevel m (if b then s1 else s0)) = classOfBit b := by
  cases b with
  | false => exact (classify_eq_zero_iff _ _).2 ((isZero_iff _ _).2 ⟨bitShape_recRecord cfg m s0 hm, h0⟩)
  | true => exact (classify_eq_one_iff _ _).2 ((isOne_iff _ _).2 ⟨bitShape_recRecord cfg m s1 hm, h1⟩)

/-- Settles O40: the records of the line carry the bits of `v`, so R29's byte is `v`. -/
theorem byteLineSendsItsByte : Obligations.ByteLineSendsItsByte := by
  intro s k v m s0 s1 rest hcnt hacc _ hm h0 h1 hins
  rw [map_drive_expandLine_byteLine] at hins
  have hlen : (byteLineRecords s.cfg.activeLevel v m s0 s1).length = 8 := by simp [byteLineRecords]
  refine recognizedByteIsLsbFirst s k _ rest _ hcnt hacc hlen (fun j r hj => ?_) hins
  obtain ⟨hlt, hr⟩ := List.getElem?_eq_some_iff.1 hj
  have hj8 : j < 8 := hlen ▸ hlt
  have hbit : (BitVec.ofNat 8 v).getLsbD j = v.testBit j := by
    rw [BitVec.getLsbD_ofNat, decide_eq_true hj8, Bool.true_and]
  rw [hbit, ← classify_recRecord s.cfg m s0 s1 (v.testBit j) hm h0 h1, ← hr]
  simp [byteLineRecords]

/-! ### The word that a step runs (R40, R61) -/

/-- Settles O9: the listed edge is the one sampled, and with `rst` = 0 it is its operation (R61). -/
theorem stepRunsTheDecodedInstruction : Obligations.StepRunsTheDecodedInstruction := by
  rintro s e rest i hins hrst rfl
  rw [step_of_cons s e rest hins, atEdge_exec _ _ hrst]

/-- A word put on the ports is executed at the very next edge, on the state as it was before. -/
theorem step_presentWord (s : State) (w : CommandWord) : step (s.presentWord w) = exec (decode w) s :=
  stepRunsTheDecodedInstruction _ (Inputs.ofWord 0#1 w) s.inputs _ rfl rfl (congrArg decode (Inputs.word_ofWord 0#1 w))

theorem decode_of_decodeTableWord (nbits w : Nat) (i : Instr) (h : decodeTableWord nbits w = some i) :
    decode (BitVec.ofNat 36 w) = i := by
  unfold decodeTableWord decodeNumber at h
  split_ifs at h
  injection h

/-- Settles O11: the number is the command word itself (log 13), and the next step executes that word (log 3). -/
theorem placedWordRunsNext : Obligations.PlacedWordRunsNext := by
  intro s nbits w i h
  rw [State.withFetchWord, step_presentWord, decode_of_decodeTableWord nbits w i h]

end Sys2Proof.Machine
end

section
/-! PROOFS. The timing-window classifier of spec/40_classifier.md: the conversion (R52, R55), the five windows (R53, R54), the
header check (R56) and the three classes of a data-bit record (R57 to R59). -/

namespace Sys2Proof.Machine

/-! ### The conversion to microseconds (R52, R55) -/

/-- The other half of `le_durUs_iff`: a floor is at most `n` when it is not `n + 1` or more. -/
theorem durUs_le_iff (cfg : Config) (d : Ticks) (n : Nat) :
    durUs cfg d ≤ n ↔ maskedTicks d * 10 ≤ (n + 1) * cfg.tick10 - 1 := by
  have hpos : 0 < (n + 1) * cfg.tick10 := Nat.mul_pos n.succ_pos cfg.legal.1
  rw [← Nat.not_lt, ← Nat.succ_le_iff, le_durUs_iff, Nat.not_le, Nat.lt_iff_le_pred hpos]

/-- Settles O31: each end of the window is compared by its own half of the division. -/
theorem rawTickComparisonAgrees : Obligations.RawTickComparisonAgrees :=
  fun cfg d lo hi => and_congr (le_durUs_iff cfg d lo) (durUs_le_iff cfg d hi)

theorem durUs_le_max (cfg : Config) (d : Ticks) : durUs cfg d ≤ 327670 := by
  have hmask := maskedTicks_lt d
  calc durUs cfg d ≤ maskedTicks d * 10 := Nat.div_le_self _ _
    _ ≤ 327670 := by omega

/-- Settles O29: bit 15 does not matter because the mask clears it before the conversion. -/
theorem durationConversion : Obligations.DurationConversion := by
  intro cfg d
  have hmax := durUs_le_max cfg d
  refine ⟨by rw [durUs, maskedTicks_eq], hmax, by omega, fun d' hd => ?_⟩
  calc durUs cfg d' = durUs cfg (d' &&& Protocol.DUR_MASK) := (durUs_and_mask cfg d').symm
    _ = durUs cfg (d &&& Protocol.DUR_MASK) := congrArg (durUs cfg) hd.symm
    _ = durUs cfg d := durUs_and_mask cfg d

/-! ### The windows (R53, R54) -/

theorem inWin_eq_false_iff (x c t : Nat) : inWin x c t = false ↔ x < c - t ∨ c + t < x := by
  rw [Bool.eq_false_iff, ne_eq, inWin_iff]
  omega

/-- Settles O30. -/
theorem windowEndsAreIncluded : Obligations.WindowEndsAreIncluded := by
  intro x c t _
  refine ⟨inWin_iff x c t, (inWin_iff _ c t).2 ?_, (inWin_iff _ c t).2 ?_, (inWin_eq_false_iff _ c t).2 ?_,
    fun _ => (inWin_eq_false_iff _ c t).2 ?_⟩ <;> omega

theorem inWin_hdrMark_iff (x : Nat) :
    inWin x Protocol.HDR_MARK_US Protocol.HDR_MARK_TOL = true ↔ 7000 ≤ x ∧ x ≤ 11000 := inWin_iff x _ _

theorem inWin_hdrSpace_iff (x : Nat) :
    inWin x Protocol.HDR_SPACE_US Protocol.HDR_SPACE_TOL = true ↔ 2500 ≤ x ∧ x ≤ 6500 := inWin_iff x _ _

theorem inWin_bitMark_iff (x : Nat) :
    inWin x Protocol.BIT_MARK_US Protocol.BIT_TOL = true ↔ 160 ≤ x ∧ x ≤ 960 := inWin_iff x _ _

theorem inWin_oneSpace_iff (x : Nat) :
    inWin x Protocol.ONE_SPACE_US Protocol.BIT_TOL = true ↔ 1290 ≤ x ∧ x ≤ 2090 := inWin_iff x _ _

theorem inWin_zeroSpace_iff (x : Nat) :
    inWin x Protocol.ZERO_SPACE_US Protocol.BIT_TOL = true ↔ 160 ≤ x ∧ x ≤ 960 := inWin_iff x _ _

/-! ### The header check (R56) -/

theorem hdrMatch_iff (cfg : Config) (r : PulseRecord) :
    hdrMatch cfg r = true ↔
      r.l0 = cfg.activeLevel ∧ r.l1 ≠ cfg.activeLevel
      ∧ inWin (durUs cfg r.d0) Protocol.HDR_MARK_US Protocol.HDR_MARK_TOL = true
      ∧ inWin (durUs cfg r.d1) Protocol.HDR_SPACE_US Protocol.HDR_SPACE_TOL = true := by
  simp only [hdrMatch, Bool.and_eq_true, active_iff, inactive_iff, and_assoc]

/-- Settles O33. -/
theorem headerMatchConditions : Obligations.HeaderMatchConditions := hdrMatch_iff

/-! ### The three classes (R57, R58) -/

theorem not_isOne_and_isZero (cfg : Config) (r : PulseRecord) : ¬ (isOne cfg r = true ∧ isZero cfg r = true) := by
  rw [isOne_iff, isZero_iff]
  rintro ⟨⟨-, h1⟩, -, h0⟩
  exact one_and_zero_windows_disjoint _ h1 h0

theorem classify_eq_unrec_iff (cfg : Config) (r : PulseRecord) :
    classify cfg r = .unrec ↔ isOne cfg r = false ∧ isZero cfg r = false := by
  rw [← Bool.not_eq_true, ← Bool.not_eq_true, ← classify_eq_one_iff, ← classify_eq_zero_iff]
  cases classify cfg r <;> decide

/-- A record with the level pattern has the shape of a data bit by its mark alone. -/
theorem bitShape_iff_of_levels (cfg : Config) (r : PulseRecord) (h0 : r.l0 = cfg.activeLevel)
    (h1 : r.l1 ≠ cfg.activeLevel) : bitShape cfg r = true ↔ 160 ≤ durUs cfg r.d0 ∧ durUs cfg r.d0 ≤ 960 := by
  rw [bitShape_iff, inWin_bitMark_iff]
  exact ⟨fun ⟨_, _, h⟩ => h, fun h => ⟨h0, h1, h⟩⟩

/-- Settles O32. -/
theorem defaultWindowsAreTheseIntervals : Obligations.DefaultWindowsAreTheseIntervals := by
  refine ⟨fun x => ⟨inWin_hdrMark_iff x, inWin_hdrSpace_iff x, inWin_bitMark_iff x, inWin_oneSpace_iff x,
    inWin_zeroSpace_iff x⟩, fun cfg r h0 h1 => ⟨?_, ?_, ?_⟩⟩
  · rw [hdrMatch_iff, inWin_hdrMark_iff, inWin_hdrSpace_iff]
    exact ⟨fun ⟨_, _, h⟩ => h, fun h => ⟨h0, h1, h⟩⟩
  · rw [classify_eq_one_iff, isOne_iff, bitShape_iff_of_levels cfg r h0 h1, inWin_oneSpace_iff]
  · rw [classify_eq_zero_iff, isZero_iff, bitShape_iff_of_levels cfg r h0 h1, inWin_zeroSpace_iff]

/-- Settles O34: the three conditions are `shape`, and the classes are the two signals built on it. -/
theorem classifyByWindows : Obligations.ClassifyByWindows := by
  intro cfg r shape h
  rw [← bitShape_iff] at h
  rw [h, ← isOne_iff, ← isZero_iff, Bool.not_eq_true, Bool.not_eq_true]
  exact ⟨classify_eq_one_iff cfg r, classify_eq_zero_iff cfg r, classify_eq_unrec_iff cfg r⟩

/-- Where the two signals exclude each other, ZERO may be tested first. -/
theorem classify_zero_first (cfg : Config) (r : PulseRecord) :
    classify cfg r = if isZero cfg r then .zero else if isOne cfg r then .one else .unrec := by
  have hdisjoint := not_isOne_and_isZero cfg r
  unfold classify
  cases h1 : isOne cfg r with
  | false => rfl
  | true =>
    have h0 : isZero cfg r = false := Bool.eq_false_iff.2 fun h0 => hdisjoint ⟨h1, h0⟩
    rw [h0]
    rfl

/-- A space that lies in neither window makes the record unrecognized, whatever its levels and its mark. -/
theorem classify_eq_unrec_of_space (cfg : Config) (r : PulseRecord)
    (h1 : inWin (durUs cfg r.d1) Protocol.ONE_SPACE_US Protocol.BIT_TOL = false)
    (h0 : inWin (durUs cfg r.d1) Protocol.ZERO_SPACE_US Protocol.BIT_TOL = false) : classify cfg r = .unrec := by
  rw [classify_eq_unrec_iff, isOne, isZero, h1, h0, Bool.and_false]
  exact ⟨rfl, rfl⟩

/-- Settles O35: 1120 µs lies between the end of the zero-space window and the start of the one-space window. -/
theorem noRecordIsBothOneAndZero : Obligations.NoRecordIsBothOneAndZero := by
  intro cfg r
  refine ⟨not_isOne_and_isZero cfg r, classify_zero_first cfg r, classify_eq_unrec_iff cfg r, fun hd => ?_⟩
  exact classify_eq_unrec_of_space cfg r (by rw [hd]; decide) (by rw [hd]; decide)

/-! ### An unrecognized record on the core (R59) -/

/-- Settles O28: `ACC` stays as it is inside a byte, and at the end of a byte is captured as it stands. -/
theorem unrecognizedRecordAddsNoBit : Obligations.UnrecognizedRecordAddsNoBit := by
  intro r s h1 h2 hclass
  refine ⟨pushRecord r s, rfl, ?_⟩
  by_cases h8 : s.cnt.toNat % 8 = 0
  · rw [pushRecord_capture r s h1 h2 h8, accNext_of_unrec s.cfg s.acc r hclass]
    exact ⟨rfl, rfl, rfl, rfl, rfl, rfl, fun h => absurd h8 h, fun _ => rfl⟩
  · rw [pushRecord_shift r s h1 h2 h8, accNext_of_unrec s.cfg s.acc r hclass]
    exact ⟨rfl, rfl, rfl, rfl, rfl, rfl, fun _ => ⟨rfl, rfl⟩, fun h => absurd h h8⟩

end Sys2Proof.Machine
end

section
/-! PROOFS. The step, NOP, START and PUSH of spec/41_accumulator.md (R61 to R70). -/

namespace Sys2Proof

/-! ### What the ports decode to (R42, R44) -/

theorem decode_of_nop (w : CommandWord) (h : opField w = 0b00#2) : decode w = .nop := by
  simp [decode, h]

theorem decode_of_start (w : CommandWord) (h : opField w = 0b01#2) : decode w = .start := by
  simp [decode, h]

theorem decode_of_finish (w : CommandWord) (h : opField w = 0b11#2) : decode w = .finish := by
  simp [decode, h]

theorem Inputs.decode_word_of_push (e : Inputs) (h : e.op = 0b10#2) :
    decode e.word = .push e.recL0 e.recD0 e.recL1 e.recD1 := by
  rw [decode_of_push e.word (by rw [e.opField_word, h]), Inputs.word, l0Field_packWord, d0Field_packWord,
    l1Field_packWord, d1Field_packWord]

end Sys2Proof

namespace Sys2Proof.Machine

/-! ### The step (R61) -/

theorem atEdge_answers_next (e : Inputs) (s : State) : ∃ t, atEdge e s = .next t := by
  by_cases hrst : e.rst = 1#1
  · exact ⟨_, atEdge_reset e s hrst⟩
  · rw [atEdge_exec e s (bit_eq_zero_of_ne_one _ hrst)]
    exact exec_answers_next _ s

theorem step_answers_next (s : State) : ∃ t, step s = .next t := atEdge_answers_next _ _

/-- Settles O8: `rst` is tested first, and then `OP` alone selects the operation. -/
theorem stepPerformsExactlyOneOperation : Obligations.StepPerformsExactlyOneOperation := by
  refine ⟨fun s e rest hins => ?_, step_answers_next⟩
  have hexec (i : Instr) (hrst : e.rst = 0#1) (hd : decode e.word = i) : step s = exec i { s with inputs := rest } :=
    stepRunsTheDecodedInstruction s e rest i hins hrst hd
  have hop := e.opField_word
  refine ⟨fun hrst => ?_, fun hrst h => ?_, fun hrst h => ?_, fun hrst h => ?_, fun hrst h => ?_⟩
  · rw [step_of_cons s e rest hins, atEdge_reset e _ hrst]
  · exact hexec .nop hrst (decode_of_nop _ (hop.trans h))
  · exact hexec .start hrst (decode_of_start _ (hop.trans h))
  · exact hexec _ hrst (e.decode_word_of_push h)
  · exact hexec .finish hrst (decode_of_finish _ (hop.trans h))

/-- Settles O10. -/
theorem unlistedEdgeTakesAFreeInput : Obligations.UnlistedEdgeTakesAFreeInput := by
  intro s h
  rw [step, State.sample_of_nil s h]

/-! ### NOP and START (R63, R64) -/

/-- Settles O18: a word with `OP` = 00 decodes to NOP whatever its record. -/
theorem nopWritesNothing : Obligations.NopWritesNothing := by
  refine ⟨exec_nop, fun w s hop => ?_⟩
  rw [decode_of_nop w hop, exec_nop]

/-- Settles O20: START writes constants alone, and FINISH and reset leave all of them but `DONE` already written. -/
theorem startAbandonsTheCall : Obligations.StartAbandonsTheCall := by
  refine ⟨exec_start, fun s t h => ?_, fun s t h => ?_⟩
  · injection h with h
    subst h
    rfl
  · rcases h with h | rfl
    · injection h with h
      subst h
      rfl
    · rfl

/-! ### The branches of PUSH (R65) -/

theorem pushRecord_eq_pushHeader (r : PulseRecord) (s : State) (h : s.cnt.toNat = 0) :
    pushRecord r s = pushHeader r (s.setDone false) := if_pos h

theorem pushRecord_eq_pushData (r : PulseRecord) (s : State) (h1 : 1 ≤ s.cnt.toNat) (h2 : s.cnt.toNat ≤ 32) :
    pushRecord r s = pushData r (s.setDone false) :=
  (if_neg (Nat.ne_of_gt h1)).trans (if_pos h2)

theorem pushRecord_eq_pushTail (r : PulseRecord) (s : State) (h : 33 ≤ s.cnt.toNat) :
    pushRecord r s = pushTail (s.setDone false) :=
  (if_neg (Nat.ne_of_gt (Nat.zero_lt_of_lt h))).trans (if_neg (Nat.not_le.2 h))

/-- Settles O21. -/
theorem pushChosenByCount : Obligations.PushChosenByCount := by
  intro l0 d0 l1 d1 s
  refine ⟨fun h => ?_, fun h1 h2 => ?_, fun h => ?_⟩
  · exact congrArg _ (pushRecord_eq_pushHeader _ s h)
  · exact congrArg _ (pushRecord_eq_pushData _ s h1 h2)
  · exact congrArg _ (pushRecord_eq_pushTail _ s (by omega))

/-- Settles O22. -/
theorem pushHeaderWritesHdrOk : Obligations.PushHeaderWritesHdrOk := by
  intro r s h
  rw [exec_push, pushRecord_header r s (by rw [h]; rfl)]

/-- The record that ends byte `k` captures it into slot `k` (R68). -/
theorem pushRecord_byte_end (r : PulseRecord) (s : State) (k : BitVec 2) (h : s.cnt.toNat = 8 * k.toNat + 8) :
    pushRecord r s =
      { s with
        done := false, acc := 0x00#8, cnt := BitVec.ofNat 6 (8 * k.toNat + 9),
        slot := s.slot.set k (accNext s.cfg s.acc r) } := by
  have hk := k.isLt
  have hidx : byteIdx s.cnt = k := by
    apply BitVec.eq_of_toNat_eq
    rw [byteIdx_toNat s.cnt (by omega) (by omega)]
    omega
  have hcnt : s.cnt + 1#6 = BitVec.ofNat 6 (8 * k.toNat + 9) := by
    rw [count_eq_iff _ _ (by omega), count_succ s.cnt (by omega), h]
  rw [pushRecord_capture r s (by omega) (by omega) (by omega), hidx, hcnt]

/-- Settles O23: records 8, 16, 24 and 32 end the bytes 0 to 3, and no other data-bit record ends one. -/
theorem pushDataShiftsAndCaptures : Obligations.PushDataShiftsAndCaptures := by
  intro r s
  have hend (k : BitVec 2) (h : s.cnt.toNat = 8 * k.toNat + 8) :=
    (exec_push r.l0 r.d0 r.l1 r.d1 s).trans (congrArg _ (pushRecord_byte_end r s k h))
  refine ⟨fun h1 h2 hmem => ?_, hend 0#2, hend 1#2, hend 2#2, hend 3#2⟩
  have h8 : s.cnt.toNat % 8 ≠ 0 := fun h8 => hmem <| by
    simp only [List.mem_cons, List.not_mem_nil, or_false]
    omega
  rw [exec_push, pushRecord_shift r s h1 h2 h8]

/-- Settles O24. -/
theorem pushTailOnlyCounts : Obligations.PushTailOnlyCounts := by
  intro r s
  refine ⟨fun h => ?_, fun h => ?_⟩ <;> rw [exec_push, pushRecord_tail r s (by rw [h]; decide), h] <;> rfl

/-- Settles O25: the last branch of R65 writes `CNT` at 33 only. -/
theorem pushAboveThirtyFourOnlyClearsDone : Obligations.PushAboveThirtyFourOnlyClearsDone := by
  intro r s h
  have hne : s.cnt ≠ 33#6 := fun h33 => by
    rw [h33] at h
    exact absurd h (by decide)
  rw [exec_push, pushRecord_tail r s (by omega), if_neg hne]

/-! ### The frame of PUSH (R13) -/

theorem pushRecord_hdrOk (r : PulseRecord) (s : State) (h : s.cnt.toNat ≠ 0) : (pushRecord r s).hdrOk = s.hdrOk := by
  rcases pushRecord_cases r s with ⟨h0, -⟩ | ⟨-, -, -, e⟩ | ⟨-, -, -, e⟩ | ⟨-, e⟩
  · exact absurd h0 h
  all_goals rw [e]

theorem pushRecord_acc (r : PulseRecord) (s : State) (h : s.cnt.toNat = 0 ∨ 33 ≤ s.cnt.toNat) :
    (pushRecord r s).acc = s.acc := by
  rcases h with h | h
  · rw [pushRecord_header r s h]
  · rw [pushRecord_tail r s h]

theorem pushRecord_slot_get (r : PulseRecord) (s : State) (k : BitVec 2) (h : s.cnt.toNat ≠ 8 * k.toNat + 8) :
    (pushRecord r s).slot.get k = s.slot.get k := by
  rcases pushRecord_cases r s with ⟨-, e⟩ | ⟨-, -, -, e⟩ | ⟨h1, h2, h8, e⟩ | ⟨-, e⟩ <;> rw [e]
  have hne : k ≠ byteIdx s.cnt := by
    rintro rfl
    rw [byteIdx_toNat s.cnt h1 h2] at h
    omega
  rw [Slots.get_set, if_neg hne]

/-- Settles O26. -/
theorem pushCompletesWithItsFrame : Obligations.PushCompletesWithItsFrame := by
  intro l0 d0 l1 d1 s
  obtain ⟨hok, haddr, hcmd, hcfg, hins, hfree, hdone⟩ := pushRecord_keeps ⟨l0, d0, l1, d1⟩ s
  exact ⟨_, exec_push l0 d0 l1 d1 s, hdone, hok, haddr, hcmd, hcfg, hins, hfree, pushRecord_hdrOk _ s,
    pushRecord_acc _ s, pushRecord_slot_get _ s⟩

/-! ### The accumulator (R67) -/

/-- Settles O27: ONE and ZERO are the bits 1 and 0 shifted in, and `& 0xFF` keeps all of a byte. -/
theorem accumulatorFollowsTheClass : Obligations.AccumulatorFollowsTheClass := by
  intro cfg acc r
  have hall (b : Byte) : b &&& 0xFF#8 = b := BitVec.and_allOnes
  refine ⟨fun h => ?_, accNext_of_bit cfg acc r false, accNext_of_unrec cfg acc r⟩
  rw [hall]
  exact accNext_of_bit cfg acc r true h

/-! ### A decode call as a run (R62) -/

/-- `t` is a state in which a decode call begins, on the core of `s`: the transient registers hold 0. -/
structure CallBegins (s t : State) : Prop where
  cfg : t.cfg = s.cfg
  freeEdges : t.freeEdges = s.freeEdges
  cnt : t.cnt = 0#6
  hdrOk : t.hdrOk = false
  acc : t.acc = 0x00#8
  slot : t.slot = Slots.zero

/-- A reset, a START and a FINISH each begin a call, whatever registers they find. -/
theorem step_begins_call (s : State) (e : Inputs) (rest : List Inputs) (he : e.beginsCall = true)
    (hins : s.inputs = e :: rest) : ∃ t, step s = .next t ∧ CallBegins s t ∧ t.inputs = rest := by
  rw [step_of_cons s e rest hins]
  by_cases hrst : e.rst = 1#1
  · exact ⟨_, atEdge_reset e _ hrst, ⟨rfl, rfl, rfl, rfl, rfl, rfl⟩, rfl⟩
  · rw [atEdge_exec e _ (bit_eq_zero_of_ne_one _ hrst)]
    rcases (beginsCall_iff e).1 he with h | h | h
    · exact absurd h hrst
    · rw [h]
      exact ⟨_, exec_start _, ⟨rfl, rfl, rfl, rfl, rfl, rfl⟩, rfl⟩
    · rw [h]
      exact ⟨_, exec_finish _, ⟨rfl, rfl, rfl, rfl, rfl, rfl⟩, rfl⟩

theorem step_ends_call (s : State) (e : Inputs) (rest : List Inputs) (he : e.endsCall = true)
    (hins : s.inputs = e :: rest) :
    step s = .next ({ s with inputs := rest } : State).concludeCall.clearTransient := by
  obtain ⟨hrst, hd⟩ := (endsCall_iff e).1 he
  rw [stepRunsTheDecodedInstruction s e rest .finish hins hrst hd, exec_finish]

/-- A call pushes its records from the state it begins in, and its FINISH concludes it there. -/
theorem run_call (s : State) (lead : Inputs) (body : List Inputs) (fin : Inputs) (rest : List Inputs)
    (seq : List PulseRecord) (hlead : lead.beginsCall = true) (hbody : callRecords body = some seq)
    (hfin : fin.endsCall = true) (hins : s.inputs = lead :: (body ++ fin :: rest)) :
    ∃ t, CallBegins s t
      ∧ run (body.length + 1) s = .next { pushAll seq t with inputs := fin :: rest }
      ∧ run (body.length + 2) s
          = .next ({ pushAll seq t with inputs := rest } : State).concludeCall.clearTransient := by
  obtain ⟨t, hstep, hbegin, htins⟩ := step_begins_call s lead _ hlead hins
  have hpush : run (body.length + 1) s = .next { pushAll seq t with inputs := fin :: rest } := by
    rw [run_succ_of_next _ s t hstep, run_body body _ seq t hbody htins]
  refine ⟨t, hbegin, hpush, ?_⟩
  calc run (body.length + 2) s
    _ = run 1 { pushAll seq t with inputs := fin :: rest } := run_add _ 1 s _ hpush
    _ = _ := by rw [run_succ_of_next 0 _ _ (step_ends_call _ fin rest hfin rfl), run_zero]

/-! ### A header failure (R70) -/

theorem pushAll_cnt (rs : List PulseRecord) (s : State) (h : s.cnt.toNat ≤ 34) :
    (pushAll rs s).cnt.toNat = min (s.cnt.toNat + rs.length) 34 := by
  induction rs generalizing s with
  | nil => simp [h]
  | cons r rs ih =>
    have hcnt := pushRecord_cnt r s h
    rw [pushAll_cons, ih _ (by omega), hcnt, List.length_cons]
    omega

/-- After record 0 no PUSH of the call writes `HDR_OK`. -/
theorem pushAll_hdrOk (rs : List PulseRecord) (s : State) (h1 : s.cnt.toNat ≠ 0) (h2 : s.cnt.toNat ≤ 34) :
    (pushAll rs s).hdrOk = s.hdrOk := by
  induction rs generalizing s with
  | nil => rfl
  | cons r rs ih =>
    have hcnt := pushRecord_cnt r s h2
    rw [pushAll_cons, ih _ (by omega) (by omega), pushRecord_hdrOk r s h1]

/-- `HDR_OK` before FINISH is the header check of record 0, whatever records follow it. -/
theorem pushAll_cons_hdrOk (header : PulseRecord) (rs : List PulseRecord) (s : State) (h : s.cnt.toNat = 0) :
    (pushAll (header :: rs) s).hdrOk = hdrMatch s.cfg header := by
  have hcnt := pushRecord_cnt header s (by omega)
  rw [pushAll_cons, pushAll_hdrOk rs _ (by omega) (by omega), pushRecord_header header s h]

theorem outcomeFlag_of_header_failure (s : State) (h : s.hdrOk = false) : outcomeFlag s = false :=
  Bool.eq_false_iff.2 fun hok => by
    obtain ⟨-, hhdr, -⟩ := (outcomeFlag_iff s).1 hok
    rw [h] at hhdr
    cases hhdr

/-- Settles O59: the records go on to be counted, and the failed check stays in `HDR_OK` until FINISH tests it. -/
theorem headerFailureFailsTheCall : Obligations.HeaderFailureFailsTheCall := by
  intro s lead body fin rest header records hlead hbody hfin hhdr hins
  obtain ⟨t, hbegin, hpush, hrun⟩ := run_call s lead body fin rest _ hlead hbody hfin hins
  have hcnt : t.cnt.toNat = 0 := by rw [hbegin.cnt]; rfl
  refine ⟨⟨_, hpush, ?_⟩, _, hrun, outcomeFlag_of_header_failure _ ?_⟩
  · show (pushAll (header :: records) t).cnt.toNat = _
    rw [pushAll_cnt _ t (by omega), hcnt, Nat.zero_add]
  · show (pushAll (header :: records) t).hdrOk = false
    rw [pushAll_cons_hdrOk header records t hcnt, hbegin.cfg, hhdr]

end Sys2Proof.Machine
end

section
/-! PROOFS. The checksum, FINISH and the decode call against `Decode` (spec/42_checksum.md R72 to R80). -/

namespace Sys2Proof.Machine

/-! ### The checksum (R72) -/

theorem eq_xor_chkMask_comm (a b : Byte) : a = b ^^^ 0xFF#8 ↔ b = a ^^^ 0xFF#8 := by
  constructor <;> rintro rfl <;> simp

theorem ne_xor_chkMask_self (a : Byte) : a ≠ a ^^^ 0xFF#8 := by
  intro h
  have hmask : 0x00#8 = 0xFF#8 := (BitVec.xor_right_inj a).1 (BitVec.xor_zero.trans h)
  exact absurd hmask (by decide)

theorem chkOk_not (a c : Byte) : chkOk a (~~~a) c (~~~c) = true := by
  have hnot (b : Byte) : b = ~~~b ^^^ 0xFF#8 := by
    rw [← eq_xor_chkMask_comm]
    exact BitVec.xor_allOnes.symm
  exact (chkOk_iff _ _ _ _).2 ⟨hnot a, hnot c⟩

/-- Settles O41: the checksum is two equations, and a byte never equals its own complement. -/
theorem checksumIsComplement : Obligations.ChecksumIsComplement := by
  intro a ac c cc
  refine ⟨chkOk_iff a ac c cc, Bool.eq_false_iff.2 fun h => ?_, eq_xor_chkMask_comm a ac⟩
  exact ne_xor_chkMask_self a ((chkOk_iff a a c cc).1 h).1

/-! ### FINISH (R73, R74) -/

/-- The outcome that FINISH gives a call, read from the registers before the edge (R73, R81). -/
def State.outcome (s : State) : Decoded :=
  if outcomeFlag s then .success (s.slot.addr.setWidth 32) (s.slot.cmd.setWidth 32) else .fail

/-- The whole state after FINISH, in terms of the outcome. -/
theorem concludeCall_clearTransient (s : State) :
    s.concludeCall.clearTransient =
      { s with
        cnt := 0#6, hdrOk := false, acc := 0x00#8, slot := Slots.zero, done := true,
        ok := s.outcome.okBit, addrOut := s.outcome.addrWord, cmdOut := s.outcome.cmdWord } := by
  rw [State.concludeCall, State.outcome]
  cases outcomeFlag s <;> rfl

/-- Settles O42: the three tests are `outcomeFlag`, and the widened bytes or 0 are `resultWord`. -/
theorem finishWritesTheOutcome : Obligations.FinishWritesTheOutcome := by
  rintro s success rfl
  rfl

/-- R74: below the bound of R14, a call that does not succeed has one of the four causes. -/
theorem outcomeFlag_eq_false_iff (s : State) (h : s.cnt.toNat ≤ 34) :
    outcomeFlag s = false ↔
      s.cnt.toNat < 34 ∨ s.hdrOk = false ∨ s.slot.addr ≠ s.slot.addrComp ^^^ 0xFF#8
        ∨ s.slot.cmd ≠ s.slot.cmdComp ^^^ 0xFF#8 := by
  have hcnt : s.cnt.toNat < 34 ↔ s.cnt.toNat ≠ 34 := by omega
  rw [Bool.eq_false_iff, ne_eq, outcomeFlag_iff, chkOk_iff, hcnt, ← Bool.not_eq_true]
  tauto

/-- Settles O43. -/
theorem finishFailsForItsCauses : Obligations.FinishFailsForItsCauses := by
  intro s h
  refine ⟨_, exec_finish s, outcomeFlag_eq_false_iff s h, fun hok => ?_⟩
  rw [concludeCall_of_failure s hok]
  rfl

/-! ### `Decode` by the length of the sequence (R75, R78) -/

theorem referenceDecode_of_short (cfg : Config) (seq : List PulseRecord) (h : seq.length < 34) :
    referenceDecode cfg seq = .fail :=
  if_pos h

theorem referenceDecode_cons_of_long (cfg : Config) (header : PulseRecord) (rs : List PulseRecord)
    (h : 34 ≤ (header :: rs).length) :
    referenceDecode cfg (header :: rs) =
      if hdrMatch cfg header = true ∧ (capturedBytes cfg (rs.take 32)).chkOk = true then
        .success ((capturedBytes cfg (rs.take 32)).addr.setWidth 32) ((capturedBytes cfg (rs.take 32)).cmd.setWidth 32)
      else .fail := by
  rw [ite_and]
  exact if_neg (Nat.not_lt.2 h)

theorem referenceDecode_of_bad_checksum (cfg : Config) (header : PulseRecord) (rs : List PulseRecord)
    (h : (capturedBytes cfg (rs.take 32)).chkOk = false) : referenceDecode cfg (header :: rs) = .fail := by
  by_cases hlen : (header :: rs).length < 34
  · exact referenceDecode_of_short cfg _ hlen
  · rw [referenceDecode_cons_of_long cfg header rs (Nat.not_lt.1 hlen), if_neg]
    simp [h]

/-! ### The registers before FINISH (R62, R75) -/

theorem pushAll_append (rs rs' : List PulseRecord) (s : State) : pushAll (rs ++ rs') s = pushAll rs' (pushAll rs s) :=
  List.foldl_append

theorem pushAll_cfg (rs : List PulseRecord) (s : State) : (pushAll rs s).cfg = s.cfg := by
  induction rs generalizing s with
  | nil => rfl
  | cons r rs ih =>
    obtain ⟨-, -, -, hcfg, -⟩ := pushRecord_keeps r s
    rw [pushAll_cons, ih, hcfg]

theorem pushAll_freeEdges (rs : List PulseRecord) (s : State) : (pushAll rs s).freeEdges = s.freeEdges := by
  induction rs generalizing s with
  | nil => rfl
  | cons r rs ih =>
    obtain ⟨-, -, -, -, -, hfree, -⟩ := pushRecord_keeps r s
    rw [pushAll_cons, ih, hfree]

/-- From `CNT` = 1 on, the first 32 records fill the slots as R75's loop does, and no later record writes one. -/
theorem pushAll_slot_of_cnt_one (rs : List PulseRecord) (s : State) (hcnt : s.cnt = 1#6) (hacc : s.acc = 0x00#8)
    (hslot : s.slot = Slots.zero) : (pushAll rs s).slot = capturedBytes s.cfg (rs.take 32) := by
  have hone : s.cnt.toNat = 1 := by rw [hcnt]; rfl
  have htake : (rs.take 32).length ≤ 32 := List.length_take_le 32 rs
  have hdata : (pushAll (rs.take 32) s).slot = capturedBytes s.cfg (rs.take 32) := by
    rw [pushAll_data _ s (by omega) (by omega), hone, hacc, hslot]
    rfl
  by_cases hlen : rs.length ≤ 32
  · rwa [List.take_of_length_le hlen] at hdata ⊢
  · have hend : (pushAll (rs.take 32) s).cnt.toNat = 33 := by
      rw [pushAll_cnt _ s (by omega), hone, List.length_take]
      omega
    calc (pushAll rs s).slot
      _ = (pushAll (rs.drop 32) (pushAll (rs.take 32) s)).slot := by rw [← pushAll_append, List.take_append_drop]
      _ = (pushAll (rs.take 32) s).slot := by rw [pushAll_tail _ _ (by omega) (by omega)]
      _ = _ := hdata

/-- The slots before FINISH hold the bytes that R75 captures. -/
theorem CallBegins.pushAll_slot {s t : State} (h : CallBegins s t) (header : PulseRecord) (rs : List PulseRecord) :
    (pushAll (header :: rs) t).slot = capturedBytes s.cfg (rs.take 32) := by
  rw [pushAll_cons, pushRecord_header header t (by rw [h.cnt]; rfl), ← h.cfg]
  exact pushAll_slot_of_cnt_one rs _ rfl h.acc h.slot

/-- The three tests of FINISH are the three tests of R75. -/
theorem CallBegins.outcomeFlag_pushAll_iff {s t : State} (h : CallBegins s t) (header : PulseRecord)
    (rs : List PulseRecord) :
    outcomeFlag (pushAll (header :: rs) t) = true ↔
      34 ≤ (header :: rs).length ∧ hdrMatch s.cfg header = true
        ∧ (capturedBytes s.cfg (rs.take 32)).chkOk = true := by
  have hzero : t.cnt.toNat = 0 := by rw [h.cnt]; rfl
  have hcnt : (pushAll (header :: rs) t).cnt.toNat = 34 ↔ 34 ≤ (header :: rs).length := by
    rw [pushAll_cnt _ t (by omega)]
    omega
  rw [outcomeFlag_iff, hcnt, pushAll_cons_hdrOk header rs t hzero, h.cfg, h.pushAll_slot header rs, Slots.chkOk]

/-- R76 at the registers: FINISH gives the call of a sequence the outcome that R75 gives the sequence. -/
theorem CallBegins.outcome_pushAll {s t : State} (h : CallBegins s t) (seq : List PulseRecord) :
    (pushAll seq t).outcome = referenceDecode s.cfg seq := by
  cases seq with
  | nil =>
    have hflag : outcomeFlag t = false := outcomeFlag_of_short_call t (by rw [h.cnt]; decide)
    rw [pushAll_nil, State.outcome, hflag]
    rfl
  | cons header rs =>
    have hflag := h.outcomeFlag_pushAll_iff header rs
    rw [State.outcome]
    by_cases hlen : 34 ≤ (header :: rs).length
    · simp only [hflag, hlen, true_and, h.pushAll_slot, referenceDecode_cons_of_long]
    · rw [if_neg fun hok => hlen (hflag.1 hok).1, referenceDecode_of_short _ _ (Nat.not_le.1 hlen)]

/-! ### The call on the core (R76, R77, R78, R80) -/

/-- Settles O54: the call runs to the FINISH of its pushed records, whose outcome is R75's. -/
theorem callEqualsReferenceDecode : Obligations.CallEqualsReferenceDecode := by
  intro s lead body fin rest seq hlead hbody hfin hins
  obtain ⟨t, hbegin, -, hrun⟩ := run_call s lead body fin rest seq hlead hbody hfin hins
  have hout : ({ pushAll seq t with inputs := rest } : State).outcome = referenceDecode s.cfg seq :=
    hbegin.outcome_pushAll seq
  rw [hrun, concludeCall_clearTransient, hout, pushAll_cfg, pushAll_freeEdges, hbegin.cfg, hbegin.freeEdges]

/-- The ports that show an outcome after its FINISH (R76, R81). -/
def Decoded.outputs (d : Decoded) : Outputs :=
  { done := 1#1, ok := BitVec.ofBool d.okBit, addrOut := d.addrWord, cmdOut := d.cmdWord }

/-- What a call shows on the ports is the outcome of its records and nothing else. -/
theorem run_call_outputs (s : State) (lead : Inputs) (body : List Inputs) (fin : Inputs) (rest : List Inputs)
    (seq : List PulseRecord) (hlead : lead.beginsCall = true) (hbody : callRecords body = some seq)
    (hfin : fin.endsCall = true) (hins : s.inputs = lead :: (body ++ fin :: rest)) :
    ∃ t, run (body.length + 2) s = .next t ∧ t.ok = (referenceDecode s.cfg seq).okBit
      ∧ t.outputs = (referenceDecode s.cfg seq).outputs :=
  ⟨_, callEqualsReferenceDecode s lead body fin rest seq hlead hbody hfin hins, rfl, rfl⟩

/-- Settles O55: both calls show the outcome of the one sequence. -/
theorem sameSequenceSameOutcome : Obligations.SameSequenceSameOutcome := by
  intro s s' lead lead' body body' fin fin' rest rest' seq hcfg hlead hlead' hbody hbody' hfin hfin' hins hins'
  obtain ⟨t, hrun, -, hout⟩ := run_call_outputs s lead body fin rest seq hlead hbody hfin hins
  obtain ⟨t', hrun', -, hout'⟩ := run_call_outputs s' lead' body' fin' rest' seq hlead' hbody' hfin' hins'
  exact ⟨t, t', hrun, hrun', by rw [hout, hout', hcfg]⟩

/-- Settles O56. -/
theorem shortSequencesFail : Obligations.ShortSequencesFail := by
  intro s lead body fin rest seq hlead hbody hfin hlen hins
  have hfail := referenceDecode_of_short s.cfg seq hlen
  obtain ⟨t, hrun, -, hout⟩ := run_call_outputs s lead body fin rest seq hlead hbody hfin hins
  rw [hfail] at hout
  exact ⟨hfail, t, hrun, hout⟩

/-- Settles O58: R75 tests the captured bytes last, whatever the header and the number of records. -/
theorem badChecksumFails : Obligations.BadChecksumFails := by
  rintro s lead body fin rest header records b hlead hbody hfin rfl hchk hins
  have hfail := referenceDecode_of_bad_checksum s.cfg header records hchk
  obtain ⟨t, hrun, hok, -⟩ := run_call_outputs s lead body fin rest _ hlead hbody hfin hins
  rw [hfail] at hok
  exact ⟨hfail, t, hrun, hok⟩

/-! ### Validly timed frames (R79) -/

/-- The four bytes that a frame of address `a` and command `c` carries (R79). -/
def frameSlots (a c : Byte) : Slots := { addr := a, addrComp := ~~~a, cmd := c, cmdComp := ~~~c }

theorem frameBit_eq_getLsbD (a c : Byte) (k : BitVec 2) (j : Nat) :
    frameBit a c k.toNat j = ((frameSlots a c).get k).getLsbD j := by
  rcases two_bits_cases k with rfl | rfl | rfl | rfl <;> rfl

/-- 32 data records whose classes carry the bits of the four bytes in order are captured as these bytes. -/
theorem capturedBytes_of_frame (cfg : Config) (a c : Byte) (rs : List PulseRecord) (hlen : rs.length = 32)
    (h : ∀ k j r, k < 4 → j < 8 → rs[8 * k + j]? = some r → classify cfg r = classOfBit (frameBit a c k j)) :
    capturedBytes cfg rs = frameSlots a c := by
  have hbyte (k : BitVec 2) : capturedByte cfg (recordsOfByte rs k.toNat) = (frameSlots a c).get k := by
    have hk := k.isLt
    have hbytelen := recordsOfByte_length rs k.toNat (by omega)
    refine capturedByte_of_classes cfg _ _ hbytelen fun j r hj => ?_
    have hj8 : j < 8 := hbytelen ▸ (List.getElem?_eq_some_iff.1 hj).1
    rw [recordsOfByte_getElem? rs k.toNat j hj8] at hj
    rw [h k.toNat j r hk hj8 hj, frameBit_eq_getLsbD]
  calc capturedBytes cfg rs
    _ = { addr := capturedByte cfg (recordsOfByte rs 0), addrComp := capturedByte cfg (recordsOfByte rs 1)
          cmd := capturedByte cfg (recordsOfByte rs 2), cmdComp := capturedByte cfg (recordsOfByte rs 3) } :=
      congrArg Scan.b (scanFrom_frame cfg rs Slots.zero hlen)
    _ = frameSlots a c := by
      rw [frameSlots, Slots.mk.injEq]
      exact ⟨hbyte 0#2, hbyte 1#2, hbyte 2#2, hbyte 3#2⟩

/-- Settles O57: the data records capture `a`, `~a`, `c`, `~c`, which the checksum passes. -/
theorem validFramesDecode : Obligations.ValidFramesDecode := by
  intro cfg a c header rest hlen hhdr hclass
  have hrest : 33 ≤ rest.length := Nat.le_of_succ_le_succ hlen
  have hbytes : capturedBytes cfg (rest.take 32) = frameSlots a c := by
    refine capturedBytes_of_frame cfg a c _ (List.length_take_of_le (by omega)) fun k j r hk hj hr => ?_
    rw [List.getElem?_take_of_lt (by omega)] at hr
    refine hclass k j r hk hj ?_
    rw [Nat.add_right_comm, List.getElem?_cons_succ, hr]
  rw [referenceDecode_cons_of_long cfg header rest hlen, hbytes, if_pos ⟨hhdr, chkOk_not a c⟩]
  rfl

end Sys2Proof.Machine
end

section
/-! PROOFS. Idle edges of spec/60_exceptions.md (R92): what NOP holds over any number of edges. -/

namespace Sys2Proof.Machine

/-- Idle edges are the body of a call with no records (R62, R63). -/
theorem callRecords_of_idles (es : List Inputs) (h : ∀ e ∈ es, e.idles = true) : callRecords es = some [] := by
  induction es with
  | nil => rfl
  | cons e es ih =>
    obtain ⟨he, hes⟩ := List.forall_mem_cons.1 h
    obtain ⟨hrst, hnop⟩ := (idles_iff e).1 he
    simp [callRecords, hrst, hnop, ih hes]

/-- Settles O19: a run over idle edges pushes the empty list of records. -/
theorem nopsHoldAllState : Obligations.NopsHoldAllState :=
  fun s es rest hidle hins => run_body es rest [] s (callRecords_of_idles es hidle) hins

end Sys2Proof.Machine
end

section
/-! PROOFS. Configuration, power-on, reset and the hazards of spec/70_reset_and_hazards.md (R93 to R99). -/

namespace Sys2Proof.Machine

/-! ### Building a core (R93, R97) -/

theorem pairsLegal_iff :
    Protocol.pairsLegal = true ↔
      Protocol.HDR_MARK_TOL ≤ Protocol.HDR_MARK_US ∧ Protocol.HDR_SPACE_TOL ≤ Protocol.HDR_SPACE_US
        ∧ Protocol.BIT_TOL ≤ Protocol.BIT_MARK_US ∧ Protocol.BIT_TOL ≤ Protocol.ONE_SPACE_US
        ∧ Protocol.BIT_TOL ≤ Protocol.ZERO_SPACE_US := by
  simp only [Protocol.pairsLegal, Bool.and_eq_true, decide_eq_true_eq, and_assoc]

theorem configurationLegal_iff (tick10 activeLevel : Nat) :
    configurationLegal tick10 activeLevel = true ↔
      (1 ≤ tick10 ∧ tick10 ≤ 65535) ∧ (activeLevel = 0 ∨ activeLevel = 1) ∧ Protocol.pairsLegal = true := by
  simp only [configurationLegal, Bool.and_eq_true, decide_eq_true_eq, and_assoc, Nat.le_one_iff_eq_zero_or_eq_one]

/-- The constants of R7 meet R93's third condition, so the two values alone make a configuration legal. -/
theorem configurationLegal_of_ranges (tick10 activeLevel : Nat) (ht : 1 ≤ tick10 ∧ tick10 ≤ 65535)
    (ha : activeLevel = 0 ∨ activeLevel = 1) : configurationLegal tick10 activeLevel = true :=
  (configurationLegal_iff tick10 activeLevel).2 ⟨ht, ha, by decide⟩

theorem construct_of_legal (n tick10 activeLevel : Nat) (inputs : List Inputs) (ht : 1 ≤ tick10 ∧ tick10 ≤ 65535)
    (h : configurationLegal tick10 activeLevel = true) :
    State.construct n tick10 activeLevel inputs =
      .next (State.powerOn n { tick10 := tick10, activeLevel := BitVec.ofNat 1 activeLevel, legal := ht } inputs) := by
  rw [State.construct, configurationOf, dif_pos ht, if_pos h]

theorem construct_of_illegal (n tick10 activeLevel : Nat) (inputs : List Inputs)
    (h : ¬ configurationLegal tick10 activeLevel = true) :
    State.construct n tick10 activeLevel inputs = .refused .illegalConfiguration := by
  simp only [State.construct, configurationOf, if_neg h, dite_eq_ite, ite_self]

/-- R93: the refusal is exactly that of an illegal configuration. -/
theorem construct_refuses_iff (n tick10 activeLevel : Nat) (inputs : List Inputs) :
    State.construct n tick10 activeLevel inputs = .refused .illegalConfiguration ↔
      ¬ configurationLegal tick10 activeLevel = true := by
  refine ⟨fun hrefused hlegal => ?_, construct_of_illegal n tick10 activeLevel inputs⟩
  obtain ⟨ht, -⟩ := (configurationLegal_iff tick10 activeLevel).1 hlegal
  rw [construct_of_legal n tick10 activeLevel inputs ht hlegal] at hrefused
  cases hrefused

/-! ### What no edge writes (R93, log 1) -/

/-- No edge writes the configuration or the inputs of the edges after it. -/
theorem atEdge_frame (e : Inputs) (s t : State) (h : atEdge e s = .next t) : t.cfg = s.cfg ∧ t.inputs = s.inputs := by
  rcases atEdge_cases e s t h with ⟨-, rfl⟩ | ⟨-, -, rfl⟩ | ⟨-, -, rfl⟩ | ⟨-, ⟨r, -, rfl⟩⟩ | ⟨-, -, rfl⟩
  · exact ⟨rfl, rfl⟩
  · exact ⟨rfl, rfl⟩
  · exact ⟨rfl, rfl⟩
  · obtain ⟨-, -, -, hcfg, hins, -⟩ := pushRecord_keeps r s
    exact ⟨hcfg, hins⟩
  · exact ⟨rfl, rfl⟩

theorem step_cfg (s t : State) (h : step s = .next t) : t.cfg = s.cfg := by
  obtain ⟨e, ins, n, hedge⟩ := step_is_edge s
  exact (atEdge_frame e { s with inputs := ins, freeEdges := n } t (hedge ▸ h)).1

/-- Settles O13: `configurationLegal` is R93's three conditions, and no edge writes the configuration. -/
theorem illegalConfigurationIsRefused : Obligations.IllegalConfigurationIsRefused := by
  refine ⟨fun n tick10 activeLevel inputs => ⟨?_, fun ht ha => ?_⟩, step_cfg⟩
  · rw [construct_refuses_iff, configurationLegal_iff, pairsLegal_iff]
  · have hlegal := configurationLegal_of_ranges tick10 activeLevel ht ha
    refine ⟨_, construct_of_legal n tick10 activeLevel inputs ht hlegal, rfl, ?_, rfl⟩
    rcases ha with rfl | rfl <;> rfl

/-! ### Reset edges (R94, R95, R97) -/

theorem step_of_reset_edge (s : State) (e : Inputs) (rest : List Inputs) (hrst : e.rst = 1#1)
    (hins : s.inputs = e :: rest) : step s = .next ({ s with inputs := rest } : State).applyReset := by
  rw [step_of_cons s e rest hins, atEdge_reset e _ hrst]

/-- R94: holding `rst` for several edges gives the same state as one edge. -/
theorem run_reset_edges (s : State) (e : Inputs) (es rest : List Inputs) (hrst : e.rst = 1#1)
    (hes : ∀ x ∈ es, x.rst = 1#1) (hins : s.inputs = e :: (es ++ rest)) :
    run (es.length + 1) s = .next ({ s with inputs := rest } : State).applyReset := by
  rw [run_succ_of_next _ _ _ (step_of_reset_edge s e _ hrst hins)]
  induction es generalizing s e with
  | nil => rfl
  | cons x es ih =>
    obtain ⟨hx, hes⟩ := List.forall_mem_cons.1 hes
    have hstep := step_of_reset_edge ({ s with inputs := x :: (es ++ rest) } : State).applyReset x _ hx rfl
    exact (run_succ_of_next _ _ _ hstep).trans (ih _ x hx hes rfl)

/-- Settles O14: `applyReset` writes every register, and the PUSH after it finds `CNT` = 0. -/
theorem resetEdgeSetsEveryRegister : Obligations.ResetEdgeSetsEveryRegister := by
  refine ⟨fun s e rest hins hrst => step_of_reset_edge s e rest hrst hins, run_reset_edges, fun s r => ?_⟩
  rw [exec_push, pushRecord_header r s.applyReset rfl]
  rfl

/-- Settles O16: a legal core is built, and the reset edge overwrites every free register value. -/
theorem bootReachesTheResetRegisters : Obligations.BootReachesTheResetRegisters := by
  intro n tick10 activeLevel e rest h1 h2 ha hrst
  have hlegal := configurationLegal_of_ranges tick10 activeLevel ⟨h1, h2⟩ (Nat.le_one_iff_eq_zero_or_eq_one.1 ha)
  exact ⟨_, _, construct_of_legal n tick10 activeLevel (e :: rest) ⟨h1, h2⟩ hlegal, rfl, rfl,
    step_of_reset_edge _ e rest hrst rfl⟩

/-- Settles O17: the call begins with the transient registers 0, and a reset edge clears the outputs too. -/
theorem transientRegistersDefinedByFirstReset : Obligations.TransientRegistersDefinedByFirstReset := by
  intro s e rest hins he
  obtain ⟨t, hstep, hbegin, -⟩ := step_begins_call s e rest he hins
  refine ⟨t, hstep, hbegin.cnt, hbegin.hdrOk, hbegin.acc, hbegin.slot, fun hrst => ?_⟩
  rw [step_of_reset_edge s e rest hrst hins] at hstep
  injection hstep with ht
  subst ht
  exact ⟨rfl, rfl, rfl, rfl⟩

/-! ### Runs of any length (R98, R99) -/

/-- Settles O12, by induction on the number of edges: each step answers a next state. -/
theorem everyRunIsSafe : Obligations.EveryRunIsSafe := by
  intro k
  induction k with
  | zero => exact fun s => ⟨s, run_zero s⟩
  | succ k ih =>
    intro s
    obtain ⟨u, hu⟩ := step_answers_next s
    obtain ⟨t, ht⟩ := ih u
    exact ⟨t, (run_succ_of_next k s u hu).trans ht⟩

/-- R98: edges with neither a reset nor a FINISH leave the result registers. -/
theorem run_keeps_results (s : State) (es rest : List Inputs)
    (hes : ∀ e ∈ es, e.rst = 0#1 ∧ decode e.word ≠ .finish) (hins : s.inputs = es ++ rest) :
    ∃ t : State, run es.length s = .next t ∧ t.ok = s.ok ∧ t.addrOut = s.addrOut ∧ t.cmdOut = s.cmdOut := by
  induction es generalizing s with
  | nil => exact ⟨s, run_zero s, rfl, rfl, rfl⟩
  | cons e es ih =>
    obtain ⟨⟨hrst, hfin⟩, hes⟩ := List.forall_mem_cons.1 hes
    obtain ⟨u, hedge⟩ := atEdge_answers_next e { s with inputs := es ++ rest }
    have hstep : step s = .next u := (step_of_cons s e _ hins).trans hedge
    obtain ⟨-, huins⟩ := atEdge_frame e _ u hedge
    rw [atEdge_exec e _ hrst] at hedge
    obtain ⟨hok, haddr, hcmd⟩ := exec_keeps_results _ _ u hfin hedge
    obtain ⟨t, hrun, htok, htaddr, htcmd⟩ := ih u hes huins
    exact ⟨t, (run_succ_of_next _ s u hstep).trans hrun, htok.trans hok, htaddr.trans haddr, htcmd.trans hcmd⟩

/-- Settles O48: the result registers over the whole list, and `DONE` because idle edges hold all state. -/
theorem resultStaysUntilNextFinish : Obligations.ResultStaysUntilNextFinish := by
  intro s es rest hes hins
  obtain ⟨t, hrun, hok, haddr, hcmd⟩ := run_keeps_results s es rest hes hins
  refine ⟨t, hrun, hok, haddr, hcmd, fun hidle => ?_⟩
  rw [nopsHoldAllState s es rest hidle hins] at hrun
  injection hrun with ht
  subst ht
  rfl

end Sys2Proof.Machine
end
